-- ==== Sys2Proof/Word.lean ====
section
/-! DEFINITION. The word type and the register index (00_scope.md R5, R7; 10_state.md R10, R11). -/

namespace Sys2Proof

/-- A register value, an ALU operand or result, or an instruction word: 32 bits, unsigned, arithmetic modulo
2^32 (R5 with D1, R7, R34). -/
abbrev Word := BitVec 32

/-- A register index: a 5-bit unsigned number, every value of which names a register (R11). -/
abbrev RegIdx := BitVec 5

/-- The register file: 32 entries of 32 bits (R10). -/
abbrev RegFile := Vector Word 32

end Sys2Proof
end

