-- ==== Sys2Proof/Syntax.lean ====
section
/-! DEFINITION. The format records, the operations and the decode failures (40_decode.md R50, R52, R58). -/

namespace Sys2Proof

/-- The R-format record `Rrec` (R36, R50): two source registers and one destination register. -/
structure RFormat where
  opcode : BitVec 7
  rd     : RegIdx
  funct3 : BitVec 3
  rs1    : RegIdx
  rs2    : RegIdx
  funct7 : BitVec 7
  deriving DecidableEq, Repr

/-- The I-format record `Irec` (R37, R39, R50): one source register, one destination register and the immediate,
already zero-extended to 32 bits. -/
structure IFormat where
  opcode : BitVec 7
  rd     : RegIdx
  funct3 : BitVec 3
  rs1    : RegIdx
  imm    : Word
  deriving DecidableEq, Repr

/-- An operation: the closed set of four, each carrying its format record (R2, R58). One constructor per row of
opcode_table.json. -/
inductive Instr where
  /-- ADD (R60). -/
  | add  (r : RFormat)
  /-- SUB (R61). -/
  | sub  (r : RFormat)
  /-- SLL (R62). -/
  | sll  (r : RFormat)
  /-- ADDI (R63). -/
  | addi (r : IFormat)
  deriving DecidableEq, Repr

/-- A decode failure, carrying the offending raw field and nothing else (R64). -/
inductive DecodeFailure where
  /-- `insn[6:0]` is neither 0x33 nor 0x13. -/
  | unknownOpcode (value : BitVec 7)
  /-- The opcode is known and `insn[14:12]` is not one of its funct3 values. -/
  | unknownFunct3 (value : BitVec 3)
  /-- The opcode is 0x33, funct3 is 0 or 1, and `insn[31:25]` is not one of its funct7 values. -/
  | unknownFunct7 (value : BitVec 7)
  deriving DecidableEq, Repr

/-- A row's selecting bits in the opcode table (30_encoding.md R44): a word is of the row exactly when
`word &&& mask = bits`. -/
structure Pattern where
  mask : Word
  bits : Word
  deriving DecidableEq, Repr

end Sys2Proof
end

