-- ==== Sys2Proof/Decode.lean ====
section
/-! DEFINITION. The bitfield extractor and the operation classifier (40_decode.md R50 to R53), and after them the
encoder and the opcode table's patterns (30_encoding.md R36, R37, R44). -/

namespace Sys2Proof

/-! ### Bitfield extractor -/

/-- `w[6:0]`, in every format (R35). -/
def opcode (w : Word) : BitVec 7 := w.extractLsb' 0 7

/-- `w[11:7]`, in both formats (R36, R37). -/
def rdField (w : Word) : RegIdx := w.extractLsb' 7 5

/-- `w[14:12]`, in both formats (R36, R37). -/
def funct3 (w : Word) : BitVec 3 := w.extractLsb' 12 3

/-- `w[19:15]`, in both formats (R36, R37). -/
def rs1Field (w : Word) : RegIdx := w.extractLsb' 15 5

/-- `w[24:20]`, R-format only (R36). -/
def rs2Field (w : Word) : RegIdx := w.extractLsb' 20 5

/-- `w[31:25]`, R-format only (R36). -/
def funct7 (w : Word) : BitVec 7 := w.extractLsb' 25 7

/-- `w[31:20]`, I-format only (R37). -/
def immField (w : Word) : BitVec 12 := w.extractLsb' 20 12

/-- The R-format record of a word, with no validation (R50, R51). -/
def rRecord (w : Word) : RFormat :=
  { opcode := opcode w, rd := rdField w, funct3 := funct3 w, rs1 := rs1Field w, rs2 := rs2Field w,
    funct7 := funct7 w }

/-- The I-format record of a word, with no validation; the immediate is zero-extended (R39, R50, R51; C1, C2). -/
def iRecord (w : Word) : IFormat :=
  { opcode := opcode w, rd := rdField w, funct3 := funct3 w, rs1 := rs1Field w,
    imm := (immField w).setWidth 32 }

/-! ### Operation classifier -/

/-- The R-format step of the classifier: funct3, then funct7 (R42). -/
def classifyR (r : RFormat) : Except DecodeFailure Instr :=
  if r.funct3 = 0#3 then
    if r.funct7 = 0#7 then .ok (.add r)
    else if r.funct7 = 0x20#7 then .ok (.sub r)
    else .error (.unknownFunct7 r.funct7)
  else if r.funct3 = 1#3 then
    if r.funct7 = 0#7 then .ok (.sll r)
    else .error (.unknownFunct7 r.funct7)
  else .error (.unknownFunct3 r.funct3)

/-- The I-format step of the classifier: funct3 only (R43). -/
def classifyI (r : IFormat) : Except DecodeFailure Instr :=
  if r.funct3 = 0#3 then .ok (.addi r)
  else .error (.unknownFunct3 r.funct3)

/-- The decode function (R52): total, reads no state (R57, R59), and the first failing test decides the failure
(R53). -/
def decode (w : Word) : Except DecodeFailure Instr :=
  if opcode w = 0x33#7 then classifyR (rRecord w)
  else if opcode w = 0x13#7 then classifyI (iRecord w)
  else .error (.unknownOpcode (opcode w))

/-! ### Encoder -/

/-- The word of an R-format record (the table of R36, bit 31 first). -/
def encodeR (r : RFormat) : Word :=
  r.funct7 ++ r.rs2 ++ r.rs1 ++ r.funct3 ++ r.rd ++ r.opcode

/-- The word of an I-format record (the table of R37, bit 31 first): the immediate's low 12 bits. -/
def encodeI (r : IFormat) : Word :=
  r.imm.extractLsb' 0 12 ++ r.rs1 ++ r.funct3 ++ r.rd ++ r.opcode

/-- The word of an operation. -/
def encode : Instr → Word
  | .add r  => encodeR r
  | .sub r  => encodeR r
  | .sll r  => encodeR r
  | .addi r => encodeI r

/-! ### The opcode table's patterns -/

/-- Whether a word is of a table row (R44). -/
def Pattern.admits (p : Pattern) (w : Word) : Bool := w &&& p.mask == p.bits

/-- ADD's match and mask (R44). -/
def addPattern : Pattern := { mask := 0xFE00707F#32, bits := 0x00000033#32 }

/-- SUB's match and mask (R44). -/
def subPattern : Pattern := { mask := 0xFE00707F#32, bits := 0x40000033#32 }

/-- SLL's match and mask (R44). -/
def sllPattern : Pattern := { mask := 0xFE00707F#32, bits := 0x00001033#32 }

/-- ADDI's match and mask (R44). -/
def addiPattern : Pattern := { mask := 0x0000707F#32, bits := 0x00000013#32 }

/-- An operation's row of R44. -/
def Instr.pattern : Instr → Pattern
  | .add _  => addPattern
  | .sub _  => subPattern
  | .sll _  => sllPattern
  | .addi _ => addiPattern

/-! ### Words as opcode_table.json numbers their bits -/

/-- The 32-bit word whose low `nbits` bits are `w`'s and whose other bits are 0. The block receives whole words, so
there is no byte order to apply (R24, R25; log entry 5). -/
def tableWord (nbits w : Nat) : Word := BitVec.ofNat 32 (w % 2 ^ nbits)

/-- The operation the decoder reads from that word, none where it fails. -/
def decodeTableWord (nbits w : Nat) : Option Instr := (decode (tableWord nbits w)).toOption

end Sys2Proof
end

