-- ==== Sys2Proof/Machine/Alu.lean ====
section
/-! DEFINITION. The ALU: add, subtract, shift left (00_scope.md R7; 41_register_register.md R60 to R62;
42_register_immediate.md R63; 10_state.md R22). -/

namespace Sys2Proof.Machine

/-- `(a + b) mod 2^32` (R60). -/
def aluAdd (a b : Word) : Word := a + b

/-- `(a - b) mod 2^32` (R61). -/
def aluSub (a b : Word) : Word := a - b

/-- The shift amount: the low 5 bits of the operand (R62). -/
def shiftAmount (b : Word) : Word := b &&& 0b11111#32

/-- `(a << (b & 0b11111)) mod 2^32` (R62). -/
def aluSll (a b : Word) : Word := a <<< shiftAmount b

/-- `(a + imm) mod 2^32`, the immediate already zero-extended (R63). -/
def aluAddi (a imm : Word) : Word := a + imm

/-- `alu_y` of the port-level ALU, by the code of `dec_op`: 00 ADD, 01 SUB, 10 SLL, 11 ADDI (R21, R22, D3). -/
def alu (op : BitVec 2) (a b imm : Word) : Word :=
  if op = 0b00#2 then aluAdd a b
  else if op = 0b01#2 then aluSub a b
  else if op = 0b10#2 then aluSll a b
  else aluAddi a imm

end Sys2Proof.Machine
end

