-- ==== Sys2Proof/Config.lean ====
section
/-! DEFINITION. What the spec leaves to a parameter of the machine (00_scope.md R5). -/

namespace Sys2Proof

/-- `REG_INIT`, the register contents after reset (R5, R73). The spec leaves it OPEN (D2).
DESIGN CHOICE (unsafe, log entry 1): zero for every register. Only `Machine.State.reset` uses this value;
`Machine.State.resetWith` takes any `REG_INIT`, and no obligation rests on the zero. -/
def Config.regInit : Fin 32 → Word := fun _ => 0#32

end Sys2Proof
end

