-- ==== Sys2Proof/Machine/State.lean ====
section
/-! DEFINITION. The machine's state, the reasons a step can stop, and the state after reset (10_state.md R10 to R20;
70_reset_and_hazards.md R73, R74). -/

namespace Sys2Proof.Machine

/-- The state of one instance of the block and of its driver's list of words. The block's own state is the register
file alone (R19). -/
structure State where
  /-- The register file `x[0]` .. `x[31]`, each an ordinary register, `x[0]` too (R10, R13). -/
  x     : RegFile
  /-- The words the driver has still to present, in order (R15 with D5, R29): the model's own field, no state of the
  block (log entry 2). -/
  words : List Word
  deriving DecidableEq, Repr

/-- Why a step stops with a fault. -/
inductive Fault where
  /-- Raised by the step, and by nothing else, when the presented word does not decode (R54, R64). The spec's own
  outcome `Fault(f)`, with which its model ends the run (R66, D6). Safe: nothing is claimed of what a driver does
  after it. -/
  | decodeFailure (f : DecodeFailure)
  deriving DecidableEq, Repr

/-- Why a step is refused. -/
inductive Refusal where
  /-- Raised by `exec` for an instruction that has no meaning yet. Safe. No arm raises it: all four instructions have
  their meaning. -/
  | notModelled (mnemonic : String)
  deriving DecidableEq, Repr

/-- The state after reset for a given `REG_INIT`: `x[i] = REG_INIT(i)` (R73), no word pending (R74). -/
def State.resetWith (regInit : Fin 32 → Word) : State :=
  { x := Vector.ofFn regInit, words := [] }

/-- The state after reset, with the model's `REG_INIT` (R73, R74; log entry 1). -/
def State.reset : State := State.resetWith Config.regInit

end Sys2Proof.Machine
end

