-- ==== Sys2Proof/Machine/Ops.lean ====
section
/-! DEFINITION. The named operations over the register file and the driver's words, and the delivery of a decode
failure (10_state.md R11 to R13, R22; 60_exceptions.md R66). -/

namespace Sys2Proof.Machine

/-- `x[i]`, a read of register `i`; no register is special (R8, R12, R13). -/
def regRead (x : RegFile) (i : RegIdx) : Word := x[i.toFin]

/-- `x[i] <- v`, a write of register `i`; no register is special (R8, R12, R13). -/
def regWrite (x : RegFile) (i : RegIdx) (v : Word) : RegFile := x.set i.toFin v

/-- `regRead` of a state's register file. -/
def State.readReg (s : State) (i : RegIdx) : Word := regRead s.x i

/-- `regWrite` of a state's register file; no other state is touched (R56). -/
def State.writeReg (s : State) (i : RegIdx) (v : Word) : State := { s with x := regWrite s.x i v }

/-- The word the driver presents for this step and the state in which it has presented it, or none when it has no
word left (R15, R24, R29; log entry 2). -/
def State.presented (s : State) : Option (Word × State) :=
  match s.words with
  | []      => none
  | w :: ws => some (w, { s with words := ws })

/-- Puts a word in front of the driver's list, so that it is presented next. -/
def State.presentNext (s : State) (w : Word) : State := { s with words := w :: s.words }

/-- The driver presents no word, so the block takes no step and its state stays.
DESIGN CHOICE (safe, log entry 3): the model answers that same state. -/
def idle (s : State) : Host.Outcome State Fault Refusal := .next s

/-- Delivery of a decode failure (R54, R66): a result value, with no register written, no state saved, no vector and
no mode entered. -/
def deliverFailure (f : DecodeFailure) : Host.Outcome State Fault Refusal := .fault (.decodeFailure f)

end Sys2Proof.Machine
end

