-- ==== Sys2Proof/Machine/Operands.lean ====
section
/-! DEFINITION. The operand forms and the execute frame (30_encoding.md R39, R40; 40_decode.md R55). -/

namespace Sys2Proof.Machine

/-- The destination register `rd` of an operation (R40). -/
def destReg : Instr → RegIdx
  | .add r  => r.rd
  | .sub r  => r.rd
  | .sll r  => r.rd
  | .addi r => r.rd

/-- The source registers of an operation: `rs1`, and for the R-format operations `rs2` (R12, R27). -/
def sourceRegs : Instr → List RegIdx
  | .add r  => [r.rs1, r.rs2]
  | .sub r  => [r.rs1, r.rs2]
  | .sll r  => [r.rs1, r.rs2]
  | .addi r => [r.rs1]

/-- The execute frame of an R-format operation (R55): both sources are read from the state before the instruction,
and only then `x[rd]` is written. It always answers a next state (R56). -/
def executeR (f : Word → Word → Word) (r : RFormat) (s : State) : Host.Outcome State Fault Refusal :=
  let a := s.readReg r.rs1
  let b := s.readReg r.rs2
  .next (s.writeReg r.rd (f a b))

/-- The execute frame of the I-format operation (R55): the source and the immediate, then the write. -/
def executeI (f : Word → Word → Word) (r : IFormat) (s : State) : Host.Outcome State Fault Refusal :=
  let a := s.readReg r.rs1
  .next (s.writeReg r.rd (f a r.imm))

end Sys2Proof.Machine
end

