-- ==== Sys2Proof/Machine/RegisterImmediate.lean ====
section
/-! DEFINITION. The I-format family: ADDI (42_register_immediate.md R63). -/

namespace Sys2Proof.Machine

/-- ADDI (R63): `x[rd] <- (x[rs1] + zext_32(insn[31:20])) mod 2^32`. -/
def execAddi (r : IFormat) (s : State) : Host.Outcome State Fault Refusal := executeI aluAddi r s

end Sys2Proof.Machine
end

