-- ==== Sys2Proof/Machine/RegisterRegister.lean ====
section
/-! DEFINITION. The R-format family: ADD, SUB, SLL (41_register_register.md R60 to R62). -/

namespace Sys2Proof.Machine

/-- ADD (R60): `x[rd] <- (x[rs1] + x[rs2]) mod 2^32`. -/
def execAdd (r : RFormat) (s : State) : Host.Outcome State Fault Refusal := executeR aluAdd r s

/-- SUB (R61): `x[rd] <- (x[rs1] - x[rs2]) mod 2^32`. -/
def execSub (r : RFormat) (s : State) : Host.Outcome State Fault Refusal := executeR aluSub r s

/-- SLL (R62): `x[rd] <- (x[rs1] << (x[rs2] & 0b11111)) mod 2^32`. -/
def execSll (r : RFormat) (s : State) : Host.Outcome State Fault Refusal := executeR aluSll r s

end Sys2Proof.Machine
end

