-- ==== Sys2Proof/Machine/Dispatch.lean ====
section
/-! DEFINITION. One arm per operation (40_decode.md R58: matched without a wildcard). -/

namespace Sys2Proof.Machine

def exec (i : Instr) (s : State) : Host.Outcome State Fault Refusal :=
  match i with
  | .add r => Sys2Proof.Machine.execAdd r s
  | .sub r => Sys2Proof.Machine.execSub r s
  | .sll r => Sys2Proof.Machine.execSll r s
  | .addi r => Sys2Proof.Machine.execAddi r s

end Sys2Proof.Machine
end

