-- ==== Sys2Proof/Machine/Step.lean ====
section
/-! DEFINITION. The step (40_decode.md R54): decode the presented word, then execute or deliver the failure. -/

namespace Sys2Proof.Machine

/-- One step of the machine: the driver presents its next word; `Ok(execute(op, X))` when it decodes, `Fault(f)`
when it does not (R54). With no word to present the block is idle (log entry 3). -/
def step (s : State) : Host.Outcome State Fault Refusal :=
  match s.presented with
  | none => idle s
  | some (w, s') =>
    match decode w with
    | .ok i    => exec i s'
    | .error f => deliverFailure f

/-- `s` with the opcode table's word `w` put where the step takes its next word: in front of the driver's list. -/
def State.withFetchWord (s : State) (nbits w : Nat) : State := s.presentNext (tableWord nbits w)

end Sys2Proof.Machine
end

