-- ==== Sys2Proof/Machine/Block.lean ====
section
/-! DEFINITION. The block as the spec writes it in its pseudocode, over the register file alone and without the
driver's list: `execute(op, X)` (40_decode.md R55, R56) and `step(X, w)` (R54). The machine's step is stated to agree
with it. -/

namespace Sys2Proof.Machine

/-- `y := ALU(op, a, b or op.imm)` of the execute frame, all sources read from `x` (R55). -/
def aluResult (i : Instr) (x : RegFile) : Word :=
  match i with
  | .add r  => aluAdd (regRead x r.rs1) (regRead x r.rs2)
  | .sub r  => aluSub (regRead x r.rs1) (regRead x r.rs2)
  | .sll r  => aluSll (regRead x r.rs1) (regRead x r.rs2)
  | .addi r => aluAddi (regRead x r.rs1) r.imm

/-- `execute(op, X)`: `X with [op.rd] := y` (R55). It has no failure path (R56). -/
def execute (i : Instr) (x : RegFile) : RegFile := regWrite x (destReg i) (aluResult i x)

/-- `step(X, w)`: the new register file, or the decode failure (R54). -/
def blockStep (x : RegFile) (w : Word) : Except DecodeFailure RegFile :=
  match decode w with
  | .ok i    => .ok (execute i x)
  | .error f => .error f

end Sys2Proof.Machine
end

