-- ==== Sys2Proof/Machine/Ports.lean ====
section
/-! DEFINITION. The block at the level of its ports (10_state.md R21, R22; D3, D4): the combinational decoder driven
from the match and mask patterns of 30_encoding.md R44 and the causes of 60_exceptions.md R64, the register file's
ports, and the write at the end of a step. A port that carries no meaning has no value, `none` (R21, D13; log
entry 6). The function-level machine is stated to agree with it. -/

namespace Sys2Proof.Machine

/-- The decoder's outputs (R21). -/
structure DecoderPorts where
  decOk     : BitVec 1
  decOp     : Option (BitVec 2)
  decRd     : Option RegIdx
  decRs1    : Option RegIdx
  decRs2    : Option RegIdx
  decImm    : Option Word
  decErr    : BitVec 2
  decErrVal : Option (BitVec 7)
  deriving DecidableEq, Repr

/-- The register file's ports and the ALU's output (R22). -/
structure DatapathPorts where
  ra1  : Option RegIdx
  rd1  : Option Word
  ra2  : Option RegIdx
  rd2  : Option Word
  aluY : Option Word
  we   : BitVec 1
  wa   : Option RegIdx
  wd   : Option Word
  deriving DecidableEq, Repr

/-- A port that carries `v` when it has a meaning, and no value otherwise. -/
def driven {α : Type} (meaningful : Bool) (v : α) : Option α := if meaningful then some v else none

/-- `dec_ok`: the word matches one of the four patterns (R21, R44). -/
def decOkBit (insn : Word) : Bool :=
  addPattern.admits insn || subPattern.admits insn || sllPattern.admits insn || addiPattern.admits insn

/-- `dec_op` when the word matches a pattern: 00 ADD, 01 SUB, 10 SLL, 11 ADDI (R21). -/
def decOpCode (insn : Word) : BitVec 2 :=
  if addPattern.admits insn then 0b00#2
  else if subPattern.admits insn then 0b01#2
  else if sllPattern.admits insn then 0b10#2
  else 0b11#2

/-- The cause of UnknownOpcode (R64). -/
def opcodeUnknown (insn : Word) : Bool := opcode insn != 0x33#7 && opcode insn != 0x13#7

/-- The cause of UnknownFunct3, for a known opcode (R64). -/
def funct3Unknown (insn : Word) : Bool :=
  if opcode insn == 0x33#7 then funct3 insn != 0#3 && funct3 insn != 1#3 else funct3 insn != 0#3

/-- The outputs of the combinational decoder (R21). -/
def decoderPorts (insn : Word) : DecoderPorts :=
  let ok := decOkBit insn
  { decOk     := BitVec.ofBool ok
    decOp     := driven ok (decOpCode insn)
    decRd     := driven ok (rdField insn)
    decRs1    := driven ok (rs1Field insn)
    decRs2    := driven ok (rs2Field insn)
    decImm    := driven ok ((immField insn).setWidth 32)
    decErr    := if ok then 0b00#2 else if opcodeUnknown insn then 0b01#2
                 else if funct3Unknown insn then 0b10#2 else 0b11#2
    decErrVal := driven (!ok)
                   (if opcodeUnknown insn then opcode insn
                    else if funct3Unknown insn then (funct3 insn).setWidth 7
                    else funct7 insn) }

/-- The register file's ports in one cycle: the reads see the register file before the step; in a step `we = dec_ok`,
`wa = dec_rd` and `wd = alu_y` (R22).
DESIGN CHOICE (log entry 7): R22 gives the write port `we`, `wa`, `wd` in a step only. With no step requested, `we = 0`
(safe for the register file), and `wa = dec_rd` and `wd = alu_y` as in a step (unsafe for a claim about those wires
outside a step; no write uses them, since `we = 0`). -/
def datapathPorts (x : RegFile) (stepReq : BitVec 1) (d : DecoderPorts) : DatapathPorts :=
  let rd1 := d.decRs1.map (regRead x)
  let rd2 := d.decRs2.map (regRead x)
  let aluY :=
    match d.decOp, rd1, rd2, d.decImm with
    | some op, some a, some b, some imm => some (alu op a b imm)
    | _, _, _, _ => none
  { ra1 := d.decRs1, rd1 := rd1, ra2 := d.decRs2, rd2 := rd2, aluY := aluY,
    we := stepReq &&& d.decOk, wa := d.decRd, wd := aluY }

/-- The write port at the end of the step: when `we = 1`, `x[wa] <- wd` (R22). -/
def commitWrite (x : RegFile) (p : DatapathPorts) : RegFile :=
  if p.we = 1#1 then
    match p.wa, p.wd with
    | some a, some v => regWrite x a v
    | _, _ => x
  else x

/-- The register file after one cycle with the given request on the `step` port and `insn` (R22). -/
def portCycle (x : RegFile) (stepReq : BitVec 1) (insn : Word) : RegFile :=
  commitWrite x (datapathPorts x stepReq (decoderPorts insn))

/-- A failure's code on `dec_err` (R21, R64). -/
def failureCode : DecodeFailure → BitVec 2
  | .unknownOpcode _ => 0b01#2
  | .unknownFunct3 _ => 0b10#2
  | .unknownFunct7 _ => 0b11#2

/-- A failure's value on `dec_err_val`, zero-extended to 7 bits (R21, R64). -/
def failureValue : DecodeFailure → BitVec 7
  | .unknownOpcode v => v
  | .unknownFunct3 v => v.setWidth 7
  | .unknownFunct7 v => v

end Sys2Proof.Machine
end

