-- ==== Sys2Proof/Safety.lean ====
section
/-! DEFINITION. What counts as a safe run: one whose every word decodes, so that no step faults (00_scope.md R9;
60_exceptions.md R66); and the other terms in which claims about runs are stated. -/

namespace Sys2Proof.Machine

/-- The word decodes to an operation. -/
def decodes (w : Word) : Bool := (decode w).toBool

/-- Every word the driver has still to present decodes. -/
def State.allDecode (s : State) : Bool := s.words.all decodes

/-- The word decodes to no operation that writes register `j`. -/
def writesNot (j : RegIdx) (w : Word) : Bool :=
  match decode w with
  | .ok i    => destReg i != j
  | .error _ => true

/-- The word decodes to no operation that reads register `j`. -/
def readsNot (j : RegIdx) (w : Word) : Bool :=
  match decode w with
  | .ok i    => !(sourceRegs i).contains j
  | .error _ => true

/-- Register `j` holds `v`, and no word still to be presented writes it. -/
def State.holdsReg (s : State) (j : RegIdx) (v : Word) : Bool :=
  s.readReg j == v && s.words.all (writesNot j)

/-- The operation with every register number replaced by its image under `π`. -/
def renameRegs (π : RegIdx → RegIdx) : Instr → Instr
  | .add r  => .add { r with rd := π r.rd, rs1 := π r.rs1, rs2 := π r.rs2 }
  | .sub r  => .sub { r with rd := π r.rd, rs1 := π r.rs1, rs2 := π r.rs2 }
  | .sll r  => .sll { r with rd := π r.rd, rs1 := π r.rs1, rs2 := π r.rs2 }
  | .addi r => .addi { r with rd := π r.rd, rs1 := π r.rs1 }

end Sys2Proof.Machine
end

