-- ==== Sys2Proof/WellFormed.lean ====
section
/-! DEFINITION. Which operation records a word can decode to (40_decode.md R58: an operation is "never constructed
directly with unchecked fields"). -/

namespace Sys2Proof

/-- The fixed fields of an R-format record (R42): opcode 0x33 and the given funct3 and funct7. -/
def RFormat.hasFixed (r : RFormat) (funct3 : BitVec 3) (funct7 : BitVec 7) : Bool :=
  r.opcode == 0x33#7 && r.funct3 == funct3 && r.funct7 == funct7

/-- The fixed fields of an I-format record (R43) and the immediate's range 0..4095 (R39). -/
def IFormat.hasFixed (r : IFormat) (funct3 : BitVec 3) : Bool :=
  r.opcode == 0x13#7 && r.funct3 == funct3 && decide (r.imm.toNat ≤ 4095)

/-- The record carries the fields that select its operation (R44) and an immediate the encoding can hold. -/
def Instr.wellFormed : Instr → Bool
  | .add r  => r.hasFixed 0#3 0#7
  | .sub r  => r.hasFixed 0#3 0x20#7
  | .sll r  => r.hasFixed 1#3 0#7
  | .addi r => r.hasFixed 0#3

end Sys2Proof
end

