-- ==== Sys2Proof/Certificates/Slice0/Obligations.lean ====
section
/-! DEFINITION. The statements for the provers. A register file is read with `regRead` and `State.readReg`; a next
state is the host's `Outcome.next`. A fault carries no state, so a step that faults writes no register. -/

open Sys2Proof Sys2Proof.Machine

/-! ### Encoding and decoding -/

/-- The bit positions of Rrec and Irec as numbers (40_decode.md R50): bits hi..lo are `w / 2^lo % 2^(hi-lo+1)`. -/
def Obligations.ExtractorTakesTheStatedBits : Prop :=
  ∀ w : Word,
    (opcode w).toNat = w.toNat % 2 ^ 7 ∧
    ((rRecord w).opcode.toNat = w.toNat % 2 ^ 7 ∧ (rRecord w).rd.toNat = w.toNat / 2 ^ 7 % 2 ^ 5 ∧
      (rRecord w).funct3.toNat = w.toNat / 2 ^ 12 % 2 ^ 3 ∧ (rRecord w).rs1.toNat = w.toNat / 2 ^ 15 % 2 ^ 5 ∧
      (rRecord w).rs2.toNat = w.toNat / 2 ^ 20 % 2 ^ 5 ∧ (rRecord w).funct7.toNat = w.toNat / 2 ^ 25) ∧
    ((iRecord w).opcode.toNat = w.toNat % 2 ^ 7 ∧ (iRecord w).rd.toNat = w.toNat / 2 ^ 7 % 2 ^ 5 ∧
      (iRecord w).funct3.toNat = w.toNat / 2 ^ 12 % 2 ^ 3 ∧ (iRecord w).rs1.toNat = w.toNat / 2 ^ 15 % 2 ^ 5 ∧
      (iRecord w).imm.toNat = w.toNat / 2 ^ 20)

/-- The fields of either format tile the word, none overlapping and no bit left out (30_encoding.md R36, R37;
90_conflicts.md, audit of numeric literals). -/
def Obligations.FormatFieldsTileTheWord : Prop :=
  ∀ w : Word, encodeR (rRecord w) = w ∧ encodeI (iRecord w) = w

/-- The immediate is zero-extended, never sign-extended and not scaled (30_encoding.md R39; C1, C2). -/
def Obligations.ImmediateIsZeroExtended : Prop :=
  ∀ (w : Word) (r : IFormat), decode w = .ok (.addi r) →
    r.imm = (w.extractLsb' 20 12).setWidth 32 ∧ r.imm = w >>> 20 ∧ r.imm.toNat ≤ 4095 ∧
    (w.getLsbD 31 = true → 2048 ≤ r.imm.toNat)

/-- Decoding the word of a well-formed operation gives the operation back, every field at every value the encoding
admits (30_encoding.md R36, R37, R44). -/
def Obligations.DecodeOfEncode : Prop :=
  ∀ i : Instr, i.wellFormed = true → decode (encode i) = .ok i

/-- A word that decodes is the word of the operation it decodes to, and that operation is well formed: one word, one
meaning, no field unchecked (40_decode.md R58). -/
def Obligations.EncodeOfDecode : Prop :=
  ∀ (w : Word) (i : Instr), decode w = .ok i → encode i = w ∧ i.wellFormed = true

/-- A word is of a row exactly when `w & mask = match`; a word of no row decodes to a failure; no word is of two rows
(30_encoding.md R44, R45). -/
def Obligations.PatternsSelectTheOperations : Prop :=
  ∀ w : Word,
    ((∃ r, decode w = .ok (.add r)) ↔ w &&& 0xFE00707F#32 = 0x00000033#32) ∧
    ((∃ r, decode w = .ok (.sub r)) ↔ w &&& 0xFE00707F#32 = 0x40000033#32) ∧
    ((∃ r, decode w = .ok (.sll r)) ↔ w &&& 0xFE00707F#32 = 0x00001033#32) ∧
    ((∃ r, decode w = .ok (.addi r)) ↔ w &&& 0x0000707F#32 = 0x00000013#32) ∧
    ((∃ f, decode w = .error f) ↔
      w &&& 0xFE00707F#32 ≠ 0x00000033#32 ∧ w &&& 0xFE00707F#32 ≠ 0x40000033#32 ∧
      w &&& 0xFE00707F#32 ≠ 0x00001033#32 ∧ w &&& 0x0000707F#32 ≠ 0x00000013#32) ∧
    [addPattern, subPattern, sllPattern, addiPattern].countP (fun p => p.admits w) ≤ 1

/-- The causes, codes and carried values of the three failures, and that execution raises none
(60_exceptions.md R64). -/
def Obligations.DecodeFailureCausesAndCodes : Prop :=
  (∀ (w : Word) (v : BitVec 7), decode w = .error (.unknownOpcode v) ↔
    v = w.extractLsb' 0 7 ∧ w.extractLsb' 0 7 ≠ 0x33#7 ∧ w.extractLsb' 0 7 ≠ 0x13#7) ∧
  (∀ (w : Word) (v : BitVec 3), decode w = .error (.unknownFunct3 v) ↔
    v = w.extractLsb' 12 3 ∧
    ((w.extractLsb' 0 7 = 0x33#7 ∧ w.extractLsb' 12 3 ≠ 0#3 ∧ w.extractLsb' 12 3 ≠ 1#3) ∨
      (w.extractLsb' 0 7 = 0x13#7 ∧ w.extractLsb' 12 3 ≠ 0#3))) ∧
  (∀ (w : Word) (v : BitVec 7), decode w = .error (.unknownFunct7 v) ↔
    v = w.extractLsb' 25 7 ∧ w.extractLsb' 0 7 = 0x33#7 ∧
    ((w.extractLsb' 12 3 = 0#3 ∧ w.extractLsb' 25 7 ≠ 0#7 ∧ w.extractLsb' 25 7 ≠ 0x20#7) ∨
      (w.extractLsb' 12 3 = 1#3 ∧ w.extractLsb' 25 7 ≠ 0#7))) ∧
  (∀ (w : Word) (v : BitVec 7), decode w = .error (.unknownOpcode v) → (decoderPorts w).decErr = 0b01#2) ∧
  (∀ (w : Word) (v : BitVec 3), decode w = .error (.unknownFunct3 v) → (decoderPorts w).decErr = 0b10#2) ∧
  (∀ (w : Word) (v : BitVec 7), decode w = .error (.unknownFunct7 v) → (decoderPorts w).decErr = 0b11#2) ∧
  (∀ (i : Instr) (s : State), ∃ t, exec i s = .next t)

/-- The order of the tests: a word with an unknown opcode reports it whatever its other bits are; with opcode 0x33 and
an unknown funct3, whatever its funct7 is; UnknownFunct7 only for opcode 0x33 and funct3 0 or 1 (40_decode.md R53). -/
def Obligations.FirstFailingTestDecides : Prop :=
  (∀ w w' : Word, opcode w ≠ 0x33#7 → opcode w ≠ 0x13#7 → opcode w' = opcode w →
    decode w' = decode w ∧ decode w = .error (.unknownOpcode (opcode w))) ∧
  (∀ w w' : Word, opcode w = 0x33#7 → funct3 w ≠ 0#3 → funct3 w ≠ 1#3 → opcode w' = opcode w →
    funct3 w' = funct3 w → decode w' = decode w ∧ decode w = .error (.unknownFunct3 (funct3 w))) ∧
  (∀ (w : Word) (v : BitVec 7), decode w = .error (.unknownFunct7 v) →
    v = funct7 w ∧ opcode w = 0x33#7 ∧ (funct3 w = 0#3 ∨ funct3 w = 1#3)) ∧
  decode 0x403150B3#32 = .error (.unknownFunct3 5#3)

/-- The seven classes cover the words and have the stated sizes, which sum to 2^32, so that they are disjoint
(40_decode.md R57, C6). -/
def Obligations.DecodeClassesHaveTheStatedSizes : Prop :=
  (∀ w : Word, (∃ r, decode w = .ok (.add r)) ∨ (∃ r, decode w = .ok (.sub r)) ∨ (∃ r, decode w = .ok (.sll r)) ∨
    (∃ r, decode w = .ok (.addi r)) ∨ (∃ v, decode w = .error (.unknownOpcode v)) ∨
    (∃ v, decode w = .error (.unknownFunct3 v)) ∨ (∃ v, decode w = .error (.unknownFunct7 v))) ∧
  Nat.card { w : Word // ∃ r, decode w = .ok (.add r) } = 2 ^ 15 ∧
  Nat.card { w : Word // ∃ r, decode w = .ok (.sub r) } = 2 ^ 15 ∧
  Nat.card { w : Word // ∃ r, decode w = .ok (.sll r) } = 2 ^ 15 ∧
  Nat.card { w : Word // ∃ r, decode w = .ok (.addi r) } = 2 ^ 22 ∧
  Nat.card { w : Word // ∃ v, decode w = .error (.unknownOpcode v) } = 126 * 2 ^ 25 ∧
  Nat.card { w : Word // opcode w = 0x33#7 ∧ ∃ v, decode w = .error (.unknownFunct3 v) } = 6 * 2 ^ 22 ∧
  Nat.card { w : Word // opcode w = 0x13#7 ∧ ∃ v, decode w = .error (.unknownFunct3 v) } = 7 * 2 ^ 22 ∧
  Nat.card { w : Word // ∃ v, decode w = .error (.unknownFunct3 v) } = 6 * 2 ^ 22 + 7 * 2 ^ 22 ∧
  Nat.card { w : Word // funct3 w = 0#3 ∧ ∃ v, decode w = .error (.unknownFunct7 v) } = 126 * 2 ^ 15 ∧
  Nat.card { w : Word // funct3 w = 1#3 ∧ ∃ v, decode w = .error (.unknownFunct7 v) } = 127 * 2 ^ 15 ∧
  Nat.card { w : Word // ∃ v, decode w = .error (.unknownFunct7 v) } = (126 + 127) * 2 ^ 15 ∧
  3 * 2 ^ 15 + 2 ^ 22 + 126 * 2 ^ 25 + (6 * 2 ^ 22 + 7 * 2 ^ 22) + (126 + 127) * 2 ^ 15 = 2 ^ 32

/-- A word whose low two bits are not 0b11 is never read as a 16-bit instruction: it is an UnknownOpcode of its low
seven bits (30_encoding.md R46). -/
def Obligations.NoCompressedEncodings : Prop :=
  (∀ w : Word, w.extractLsb' 0 2 ≠ 0b11#2 → decode w = .error (.unknownOpcode (w.extractLsb' 0 7))) ∧
  decode 0x00004501#32 = .error (.unknownOpcode 0x01#7)

/-- What the words of standard RISC-V's other instructions decode to (30_encoding.md R47). -/
def Obligations.StandardRiscvWordsOutsideTheSet : Prop :=
  (∀ w : Word, opcode w ∈ [0x03#7, 0x0F#7, 0x17#7, 0x1B#7, 0x23#7, 0x2F#7, 0x37#7, 0x3B#7, 0x63#7, 0x67#7, 0x6F#7,
      0x73#7] → decode w = .error (.unknownOpcode (opcode w))) ∧
  (∀ w : Word, opcode w = 0x13#7 → funct3 w ∈ [1#3, 2#3, 3#3, 4#3, 5#3, 6#3, 7#3] →
    decode w = .error (.unknownFunct3 (funct3 w))) ∧
  (∀ w : Word, opcode w = 0x33#7 → funct3 w ∈ [2#3, 3#3, 4#3, 5#3, 6#3, 7#3] →
    decode w = .error (.unknownFunct3 (funct3 w))) ∧
  (∀ w : Word, opcode w = 0x33#7 → funct7 w = 1#7 → funct3 w ∈ [0#3, 1#3] →
    decode w = .error (.unknownFunct7 0x01#7))

/-- A few words written out from the encodings decode as the spec's vectors S1, S2, S3, S6, S5, S4 and S7 say
(95_test_vectors.md section 1). -/
def Obligations.SpecVectorWordsDecode : Prop :=
  decode 0x003100B3#32 = .ok (.add ⟨0x33, 1, 0, 2, 3, 0⟩) ∧
  decode 0x40310133#32 = .ok (.sub ⟨0x33, 2, 0, 2, 3, 0x20⟩) ∧
  decode 0x003110B3#32 = .ok (.sll ⟨0x33, 1, 1, 2, 3, 0⟩) ∧
  decode 0xFFF00093#32 = .ok (.addi ⟨0x13, 1, 0, 0, 4095⟩) ∧
  decode 0x023100B3#32 = .error (.unknownFunct7 1) ∧
  decode 0x003120B3#32 = .error (.unknownFunct3 2) ∧
  decode 0x00000073#32 = .error (.unknownOpcode 0x73)

/-! ### The four operations -/

/-- ADD (41_register_register.md R60): every ADD completes with `x[rd] = (x[rs1] + x[rs2]) mod 2^32`, both sources as
they were before, and nothing else changed; its words; the failures of its neighbours. -/
def Obligations.AddWritesTheModularSum : Prop :=
  (∀ (r : RFormat) (s : State), ∃ t, exec (.add r) s = .next t ∧
    (t.readReg r.rd).toNat = ((s.readReg r.rs1).toNat + (s.readReg r.rs2).toNat) % 2 ^ 32 ∧
    (∀ j, j ≠ r.rd → t.readReg j = s.readReg j) ∧ t.words = s.words) ∧
  (∀ w : Word, w &&& 0xFE00707F#32 = 0x00000033#32 → decode w = .ok (.add (rRecord w))) ∧
  (∀ w : Word, opcode w = 0x33#7 → funct3 w = 0#3 → funct7 w ≠ 0#7 → funct7 w ≠ 0x20#7 →
    decode w = .error (.unknownFunct7 (funct7 w)))

/-- SUB (41_register_register.md R61): every SUB completes with `x[rd] = (x[rs1] + (2^32 - x[rs2])) mod 2^32`, both
sources as they were before, and nothing else changed; equal sources give 0; its words. -/
def Obligations.SubWritesTheModularDifference : Prop :=
  (∀ (r : RFormat) (s : State), ∃ t, exec (.sub r) s = .next t ∧
    (t.readReg r.rd).toNat = ((s.readReg r.rs1).toNat + (2 ^ 32 - (s.readReg r.rs2).toNat)) % 2 ^ 32 ∧
    (s.readReg r.rs1 = s.readReg r.rs2 → t.readReg r.rd = 0#32) ∧
    (∀ j, j ≠ r.rd → t.readReg j = s.readReg j) ∧ t.words = s.words) ∧
  (∀ w : Word, w &&& 0xFE00707F#32 = 0x40000033#32 → decode w = .ok (.sub (rRecord w)))

/-- SLL (41_register_register.md R62): every SLL completes with `x[rs1]` shifted left by the low 5 bits of `x[rs2]`,
zeros entering and bits past 31 lost, both sources as they were before, and nothing else changed; its words; the
failures of its neighbours. -/
def Obligations.SllShiftsByTheLowFiveBits : Prop :=
  (∀ (r : RFormat) (s : State), ∃ t, exec (.sll r) s = .next t ∧
    (t.readReg r.rd).toNat =
      (s.readReg r.rs1).toNat * 2 ^ ((s.readReg r.rs2).extractLsb' 0 5).toNat % 2 ^ 32 ∧
    (∀ j, j ≠ r.rd → t.readReg j = s.readReg j) ∧ t.words = s.words) ∧
  (∀ w : Word, w &&& 0xFE00707F#32 = 0x00001033#32 → decode w = .ok (.sll (rRecord w))) ∧
  (∀ w : Word, opcode w = 0x33#7 → funct3 w = 1#3 → funct7 w ≠ 0#7 →
    decode w = .error (.unknownFunct7 (funct7 w)))

/-- ADDI (42_register_immediate.md R63): every word of ADDI's pattern runs, on every state that presents it, to
`x[rd] = (x[rs1] + insn[31:20]) mod 2^32` with the immediate read as 0..4095, and nothing else changed; the new value
is below the old one only by a wrap; every ADDI record completes; the failures of its neighbours. -/
def Obligations.AddiAddsTheUnsignedImmediate : Prop :=
  (∀ (r : IFormat) (s : State), ∃ t, exec (.addi r) s = .next t ∧
    (t.readReg r.rd).toNat = ((s.readReg r.rs1).toNat + r.imm.toNat) % 2 ^ 32 ∧
    (∀ j, j ≠ r.rd → t.readReg j = s.readReg j) ∧ t.words = s.words) ∧
  (∀ (w : Word) (s : State), w &&& 0x0000707F#32 = 0x00000013#32 → ∃ t, step (s.presentNext w) = .next t ∧
    (t.readReg (w.extractLsb' 7 5)).toNat =
      ((s.readReg (w.extractLsb' 15 5)).toNat + (w.extractLsb' 20 12).toNat) % 2 ^ 32 ∧
    ((t.readReg (w.extractLsb' 7 5)).toNat < (s.readReg (w.extractLsb' 15 5)).toNat →
      2 ^ 32 ≤ (s.readReg (w.extractLsb' 15 5)).toNat + (w.extractLsb' 20 12).toNat) ∧
    (∀ j, j ≠ w.extractLsb' 7 5 → t.readReg j = s.readReg j) ∧ t.words = s.words) ∧
  (∀ w : Word, opcode w = 0x13#7 → funct3 w ≠ 0#3 → decode w = .error (.unknownFunct3 (funct3 w)))

/-- The execute frame for every operation: it completes on every state, writes `x[rd]` with the ALU's result on the
registers as they were before the instruction, `rd = rs1`, `rd = rs2` and `rd = 0` included, and touches nothing else
(40_decode.md R55, R56; 60_exceptions.md R65). -/
def Obligations.ExecuteReadsThenWritesOneEntry : Prop :=
  ∀ (i : Instr) (s : State), ∃ t, exec i s = .next t ∧ t.readReg (destReg i) = aluResult i s.x ∧
    (∀ j, j ≠ destReg i → t.readReg j = s.readReg j) ∧ t.words = s.words

/-- What an operation writes depends on its source registers alone (20_memory.md R27). -/
def Obligations.ResultDependsOnTheSourcesAlone : Prop :=
  ∀ (i : Instr) (s s' : State), (∀ j ∈ sourceRegs i, s.readReg j = s'.readReg j) →
    ∃ t t', exec i s = .next t ∧ exec i s' = .next t' ∧ t.readReg (destReg i) = t'.readReg (destReg i)

/-- All 32 registers can be used alike: renaming the registers of an operation and of the state renames the result,
so that no register, `x[0]` included, has behaviour of its own (10_state.md R12, R13). -/
def Obligations.RegistersAreInterchangeable : Prop :=
  ∀ (π : RegIdx → RegIdx) (i : Instr) (s s' : State), Function.Injective π →
    (∀ j, s'.readReg (π j) = s.readReg j) →
    ∃ t t', exec i s = .next t ∧ exec (renameRegs π i) s' = .next t' ∧ ∀ j, t'.readReg (π j) = t.readReg j

/-- Register 0 is not hardwired: a step that writes it stores the value, any other step leaves it, a read as a source
uses the value it holds, and after reset it holds its own reset value (10_state.md R13; C3). -/
def Obligations.RegisterZeroIsOrdinary : Prop :=
  (∀ (s : State) (w : Word) (i : Instr), decode w = .ok i → ∃ t, step (s.presentNext w) = .next t ∧
    t.readReg 0#5 = if destReg i = 0#5 then aluResult i s.x else s.readReg 0#5) ∧
  (∀ (v : Word) (s : State), s.readReg 0#5 = v →
    ∃ t, exec (.addi { opcode := 0x13#7, rd := 1#5, funct3 := 0#3, rs1 := 0#5, imm := 0#32 }) s = .next t ∧
      t.readReg 1#5 = v) ∧
  (∀ f : Fin 32 → Word, (State.resetWith f).readReg 0#5 = f 0)

/-- What the words of four standard pseudo-instructions do here: `nop` leaves every register, `mv` copies, `li` adds to
`x[0]`, `neg` subtracts from `x[0]` (30_encoding.md R49). -/
def Obligations.StandardPseudoInstructionWords : Prop :=
  (∀ s : State, step (s.presentNext 0x00000013#32) = .next s) ∧
  (∀ (s : State) (rd rs : RegIdx), ∃ t,
    step (s.presentNext (0#12 ++ rs ++ 0#3 ++ rd ++ 0x13#7)) = .next t ∧ t.readReg rd = s.readReg rs ∧
    ∀ j, j ≠ rd → t.readReg j = s.readReg j) ∧
  (∀ (s : State) (rd : RegIdx) (imm : BitVec 12), ∃ t,
    step (s.presentNext (imm ++ 0#5 ++ 0#3 ++ rd ++ 0x13#7)) = .next t ∧
    t.readReg rd = s.readReg 0#5 + imm.setWidth 32 ∧ ∀ j, j ≠ rd → t.readReg j = s.readReg j) ∧
  (∀ (s : State) (rd rs : RegIdx), ∃ t,
    step (s.presentNext (0x20#7 ++ rs ++ 0#5 ++ 0#3 ++ rd ++ 0x33#7)) = .next t ∧
    t.readReg rd = s.readReg 0#5 - s.readReg rs ∧ ∀ j, j ≠ rd → t.readReg j = s.readReg j)

/-! ### The step -/

/-- A step runs the decoded instruction on the state from which the presented word has been taken; when the word does
not decode it is a fault with that failure (40_decode.md R54). -/
def Obligations.StepRunsTheDecodedInstruction : Prop :=
  (∀ (s : State) (w : Word) (ws : List Word) (i : Instr), s.words = w :: ws → decode w = .ok i →
    step s = exec i { s with words := ws }) ∧
  (∀ (s : State) (w : Word) (ws : List Word) (f : DecodeFailure), s.words = w :: ws → decode w = .error f →
    step s = .fault (.decodeFailure f))

/-- With no word to present the machine stays as it is. This is the model's own choice (log entry 3), no rule of the
spec. -/
def Obligations.NoWordLeavesTheStateAsItIs : Prop :=
  ∀ s : State, s.words = [] → step s = .next s

/-- The machine's step on a presented word is the spec's `step(X, w)`: `Ok(execute(op, X))` or `Fault(f)`
(40_decode.md R54). -/
def Obligations.StepRefinesTheBlockStep : Prop :=
  ∀ (x : RegFile) (w : Word) (ws : List Word),
    step { x := x, words := w :: ws } =
      match blockStep x w with
      | .ok x'   => .next { x := x', words := ws }
      | .error f => .fault (.decodeFailure f)

/-- A presented word has exactly two outcomes: a next state, exactly when it decodes, whose register file is
`execute(op, X)`, or a fault, exactly when it does not, with the register file unchanged (a fault carries no state, so
that is said of the port-level cycle); no step is refused (00_scope.md R9), not even one with no word to present, whose
outcome is the model's own choice (log entry 3). -/
def Obligations.StepHasExactlyTwoOutcomes : Prop :=
  (∀ (s : State) (w : Word), (∃ t, step (s.presentNext w) = .next t) ↔ ∃ i, decode w = .ok i) ∧
  (∀ (s t : State) (w : Word) (i : Instr), decode w = .ok i → step (s.presentNext w) = .next t →
    t.x = execute i s.x) ∧
  (∀ (s : State) (w : Word) (f : DecodeFailure),
    step (s.presentNext w) = .fault (.decodeFailure f) ↔ decode w = .error f) ∧
  (∀ (x : RegFile) (w : Word) (f : DecodeFailure), decode w = .error f → portCycle x 1#1 w = x) ∧
  (∀ (s : State) (r : Refusal), step s ≠ .refused r)

/-- Only a step whose word decodes changes the register file, and then only at `x[rd]`, which gets the result; a step
whose word does not decode answers no next state, and at the ports it writes no entry (10_state.md R14). -/
def Obligations.OnlyADecodedWordChangesARegister : Prop :=
  (∀ (s t : State) (j : RegIdx), step s = .next t → t.readReg j ≠ s.readReg j →
    ∃ w ws i, s.words = w :: ws ∧ decode w = .ok i ∧ j = destReg i ∧ t.readReg j = aluResult i s.x) ∧
  (∀ (s : State) (w : Word) (f : DecodeFailure), decode w = .error f →
    (∀ t, step (s.presentNext w) ≠ .next t) ∧ portCycle s.x 1#1 w = s.x)

/-- An instruction sees the register its predecessor wrote: no hazard (70_reset_and_hazards.md R76). -/
def Obligations.NextInstructionSeesTheWrite : Prop :=
  ∀ (x : RegFile) (w₁ w₂ : Word) (ws : List Word) (i₁ i₂ : Instr), decode w₁ = .ok i₁ → decode w₂ = .ok i₂ →
    ∃ t₁ t₂, step { x := x, words := w₁ :: w₂ :: ws } = .next t₁ ∧ step t₁ = .next t₂ ∧
      (∀ j ∈ sourceRegs i₂, t₁.readReg j = if j = destReg i₁ then aluResult i₁ x else regRead x j) ∧
      t₂.readReg (destReg i₂) = aluResult i₂ t₁.x

/-- A word of the opcode table put where the step takes its next word is the one it runs: the operation the decoder
reads from it, on the state before it was put there, or the failure where the decoder reads none. -/
def Obligations.PlacedTableWordIsRunNext : Prop :=
  (∀ (s : State) (n : Nat) (i : Instr), decodeTableWord 32 n = some i → step (s.withFetchWord 32 n) = exec i s) ∧
  (∀ (s : State) (n : Nat), decodeTableWord 32 n = none →
    ∃ f, decode (BitVec.ofNat 32 n) = .error f ∧ step (s.withFetchWord 32 n) = .fault (.decodeFailure f))

/-! ### Ports -/

/-- The decoder's ports for every word: the operation's code and fields when it decodes, the failure's code and value
when it does not, and no value on a port that carries no meaning (10_state.md R21). For the ports that carry no
meaning when `dec_ok = 0` the spec says so itself (R21, D13); that `dec_err_val`, which R21 says carries no meaning when
`dec_ok = 1`, has no value then is the model's own inference (log entry 6, DEDUCED). -/
def Obligations.DecoderPortsCarryTheDecodedWord : Prop :=
  ∀ w : Word,
    decoderPorts w =
      match decode w with
      | .ok i =>
        { decOk := 1#1
          decOp := some (match i with | .add _ => 0b00#2 | .sub _ => 0b01#2 | .sll _ => 0b10#2 | .addi _ => 0b11#2)
          decRd := some (w.extractLsb' 7 5), decRs1 := some (w.extractLsb' 15 5)
          decRs2 := some (w.extractLsb' 20 5), decImm := some ((w.extractLsb' 20 12).setWidth 32)
          decErr := 0b00#2, decErrVal := none }
      | .error f =>
        { decOk := 0#1, decOp := none, decRd := none, decRs1 := none, decRs2 := none, decImm := none
          decErr := match f with
            | .unknownOpcode _ => 0b01#2 | .unknownFunct3 _ => 0b10#2 | .unknownFunct7 _ => 0b11#2
          decErrVal := some (match f with
            | .unknownOpcode v => v | .unknownFunct3 v => v.setWidth 7 | .unknownFunct7 v => v) }

/-- The register file's ports in a step: the read ports show the registers named by the word as they were before the
step, and the write port carries the operation's result to `x[rd]`; for a word that does not decode `we = 0`
(10_state.md R22; 41_register_register.md R60 to R62; 42_register_immediate.md R63). -/
def Obligations.DatapathPortsCarryTheResult : Prop :=
  (∀ (x : RegFile) (w : Word) (i : Instr), decode w = .ok i →
    datapathPorts x 1#1 (decoderPorts w) =
      { ra1 := some (w.extractLsb' 15 5), rd1 := some (regRead x (w.extractLsb' 15 5))
        ra2 := some (w.extractLsb' 20 5), rd2 := some (regRead x (w.extractLsb' 20 5))
        aluY := some (aluResult i x), we := 1#1, wa := some (destReg i), wd := some (aluResult i x) }) ∧
  (∀ (x : RegFile) (w : Word) (f : DecodeFailure), decode w = .error f →
    (datapathPorts x 1#1 (decoderPorts w)).we = 0#1)

/-- One cycle of the ports with a step requested does to the register file what the machine's step does, and reports
the same failure (10_state.md R21, R22; 40_decode.md R54). -/
def Obligations.PortCycleRefinesTheStep : Prop :=
  ∀ (x : RegFile) (w : Word) (ws : List Word),
    match step { x := x, words := w :: ws } with
    | .next t => portCycle x 1#1 w = t.x ∧ (decoderPorts w).decOk = 1#1 ∧ (decoderPorts w).decErr = 0b00#2
    | .fault (.decodeFailure f) =>
      portCycle x 1#1 w = x ∧ (decoderPorts w).decOk = 0#1 ∧ (decoderPorts w).decErr = failureCode f ∧
      (decoderPorts w).decErrVal = some (failureValue f)
    | .refused _ => False

/-- With no step requested a cycle writes nothing. The write port outside a step is the model's own choice (log
entry 7). -/
def Obligations.NoRequestWritesNothing : Prop :=
  ∀ (x : RegFile) (w : Word), portCycle x 0#1 w = x

/-! ### Runs -/

/-- The run over a list of words is the left fold of the spec's step over it, stopping at the first fault
(20_memory.md R29). -/
def Obligations.RunIsTheLeftFold : Prop :=
  ∀ (x : RegFile) (ws : List Word),
    Host.Core.run Sys2Proof.core ws.length ({ x := x, words := ws } : State) =
      match ws.foldlM blockStep x with
      | .ok x'   => .next ({ x := x', words := [] } : State)
      | .error f => .fault (Fault.decodeFailure f)

/-- Failures are precise and end the run: at the first word that does not decode the register file is the one after
the last word that did, and every longer run ends in that failure, never in a next state (60_exceptions.md R66, D6). -/
def Obligations.FailuresArePreciseAndFinal : Prop :=
  ∀ (x x' : RegFile) (pre post : List Word) (w : Word) (f : DecodeFailure),
    pre.foldlM blockStep x = .ok x' → decode w = .error f →
    Host.Core.run Sys2Proof.core pre.length ({ x := x, words := pre ++ w :: post } : State) =
      .next ({ x := x', words := w :: post } : State) ∧
    ∀ k, pre.length < k →
      Host.Core.run Sys2Proof.core k ({ x := x, words := pre ++ w :: post } : State) =
        .fault (Fault.decodeFailure f)

/-- The words are presented in list order, one a step (10_state.md R15, D5). The list is the model's `words` field (log
entry 2), and that a run past the last word goes on with the empty list is the model's own choice (log entry 3). -/
def Obligations.WordsArePresentedInOrder : Prop :=
  ∀ (k : Nat) (s t : State), Host.Core.run Sys2Proof.core k s = .next t → t.words = s.words.drop k

/-- A run never stops exactly when every word decodes (00_scope.md R9; 60_exceptions.md R65, R66). That a run past the
last word answers the same state is the model's own choice (log entry 3). -/
def Obligations.RunNeverStopsIffEveryWordDecodes : Prop :=
  ∀ s : State, s.allDecode = true ↔ ∀ k : Nat, ∃ t : State, Host.Core.run Sys2Proof.core k s = .next t

/-- Every step keeps: all words still to be presented decode. A step only takes the first word off the driver's list
(10_state.md R15, D5; 20_memory.md R29), which the model holds in the `words` field (log entry 2); with no word left it
leaves the state as it is, the model's own choice (log entry 3). -/
def Obligations.EveryStepKeepsAllDecode : Prop :=
  ∀ s t : State, s.allDecode = true → step s = .next t → t.allDecode = true

/-- Every step keeps: register `j` holds `v` and no word still to be presented writes it (10_state.md R14). The words
still to be presented are the model's `words` field (log entry 2), and a step with none left is its own choice (log
entry 3). -/
def Obligations.EveryStepKeepsAnUnwrittenRegister : Prop :=
  ∀ (j : RegIdx) (v : Word) (s t : State), s.holdsReg j v = true → step s = .next t → t.holdsReg j v = true

/-- A register that no presented word reads cannot influence anything but itself: two runs that differ only in it
end alike, with the same failure or with register files that differ at most in it (20_memory.md R27, R29). A run past
the last word is the model's own choice (log entry 3). -/
def Obligations.UnreadRegisterDoesNotInterfere : Prop :=
  ∀ (j : RegIdx) (k : Nat) (s s' : State), s.words = s'.words → (∀ i, i ≠ j → s.readReg i = s'.readReg i) →
    s.words.all (readsNot j) = true →
    (∃ t t' : State, Host.Core.run Sys2Proof.core k s = .next t ∧ Host.Core.run Sys2Proof.core k s' = .next t' ∧
      t.words = t'.words ∧ ∀ i, i ≠ j → t.readReg i = t'.readReg i) ∨
    (∃ f : Fault, Host.Core.run Sys2Proof.core k s = .fault f ∧ Host.Core.run Sys2Proof.core k s' = .fault f)

/-! ### Reset -/

/-- After reset every register, `x[0]` too, holds its `REG_INIT`, for every `REG_INIT`, the machine's own among them,
whatever its values are (70_reset_and_hazards.md R73). -/
def Obligations.ResetLeavesRegInit : Prop :=
  (∀ (regInit : Fin 32 → Word) (i : Fin 32), (State.resetWith regInit).readReg (BitVec.ofFin i) = regInit i) ∧
  ∀ i : Fin 32, State.reset.readReg (BitVec.ofFin i) = Config.regInit i

/-- After reset no word is pending, whatever `REG_INIT` is (70_reset_and_hazards.md R74, D14), and the invariants that
every step keeps hold: each register holds its own reset value with nothing left to write it. That `words` is empty is
how this model holds "no word is pending" (log entry 2). -/
def Obligations.InvariantsHoldAfterReset : Prop :=
  (∀ regInit : Fin 32 → Word, (State.resetWith regInit).words = [] ∧ (State.resetWith regInit).allDecode = true ∧
    ∀ i : Fin 32, (State.resetWith regInit).holdsReg (BitVec.ofFin i) (regInit i) = true) ∧
  State.reset.words = [] ∧ State.reset.allDecode = true ∧
  ∀ i : Fin 32, State.reset.holdsReg (BitVec.ofFin i) (Config.regInit i) = true
end

