-- ==== Sys2Proof/Laws/Decode.lean ====
section
/-! SUPPORT. The fields of an encoded word (30_encoding.md R35 to R37): the encoder's bits, and the extractor on them. -/

namespace Sys2Proof

/-- Each bit of an R-format word, by the field it lies in. -/
theorem encodeR_getLsbD (r : RFormat) (i : Nat) :
    (encodeR r).getLsbD i =
      if i < 7 then r.opcode.getLsbD i
      else if i < 12 then r.rd.getLsbD (i - 7)
      else if i < 15 then r.funct3.getLsbD (i - 12)
      else if i < 20 then r.rs1.getLsbD (i - 15)
      else if i < 25 then r.rs2.getLsbD (i - 20)
      else r.funct7.getLsbD (i - 25) := by
  change (r.funct7 ++ r.rs2 ++ r.rs1 ++ r.funct3 ++ r.rd ++ r.opcode).getLsbD i = _
  simp only [BitVec.getLsbD_append]
  split_ifs <;> first | rfl | omega

/-- Each bit of an I-format word, by the field it lies in. -/
theorem encodeI_getLsbD (r : IFormat) (i : Nat) :
    (encodeI r).getLsbD i =
      if i < 7 then r.opcode.getLsbD i
      else if i < 12 then r.rd.getLsbD (i - 7)
      else if i < 15 then r.funct3.getLsbD (i - 12)
      else if i < 20 then r.rs1.getLsbD (i - 15)
      else (r.imm.extractLsb' 0 12).getLsbD (i - 20) := by
  change (r.imm.extractLsb' 0 12 ++ r.rs1 ++ r.funct3 ++ r.rd ++ r.opcode).getLsbD i = _
  simp only [BitVec.getLsbD_append]
  split_ifs <;> first | rfl | omega

@[simp] theorem opcode_encodeR (r : RFormat) : opcode (encodeR r) = r.opcode := by
  ext i hi
  simp [opcode, encodeR_getLsbD, hi]

@[simp] theorem rdField_encodeR (r : RFormat) : rdField (encodeR r) = r.rd := by
  ext i hi
  simp [rdField, encodeR_getLsbD, hi, show 7 + i < 12 by omega]

@[simp] theorem funct3_encodeR (r : RFormat) : funct3 (encodeR r) = r.funct3 := by
  ext i hi
  simp [funct3, encodeR_getLsbD, hi, show ¬12 + i < 7 by omega, show 12 + i < 15 by omega]

@[simp] theorem rs1Field_encodeR (r : RFormat) : rs1Field (encodeR r) = r.rs1 := by
  ext i hi
  simp [rs1Field, encodeR_getLsbD, hi, show ¬15 + i < 7 by omega, show ¬15 + i < 12 by omega,
    show 15 + i < 20 by omega]

@[simp] theorem rs2Field_encodeR (r : RFormat) : rs2Field (encodeR r) = r.rs2 := by
  ext i hi
  simp [rs2Field, encodeR_getLsbD, hi, show ¬20 + i < 7 by omega, show ¬20 + i < 12 by omega,
    show ¬20 + i < 15 by omega, show 20 + i < 25 by omega]

@[simp] theorem funct7_encodeR (r : RFormat) : funct7 (encodeR r) = r.funct7 := by
  ext i hi
  simp [funct7, encodeR_getLsbD, hi, show ¬25 + i < 7 by omega, show ¬25 + i < 12 by omega,
    show ¬25 + i < 15 by omega, show ¬25 + i < 20 by omega]

@[simp] theorem opcode_encodeI (r : IFormat) : opcode (encodeI r) = r.opcode := by
  ext i hi
  simp [opcode, encodeI_getLsbD, hi]

@[simp] theorem rdField_encodeI (r : IFormat) : rdField (encodeI r) = r.rd := by
  ext i hi
  simp [rdField, encodeI_getLsbD, hi, show 7 + i < 12 by omega]

@[simp] theorem funct3_encodeI (r : IFormat) : funct3 (encodeI r) = r.funct3 := by
  ext i hi
  simp [funct3, encodeI_getLsbD, hi, show ¬12 + i < 7 by omega, show 12 + i < 15 by omega]

@[simp] theorem rs1Field_encodeI (r : IFormat) : rs1Field (encodeI r) = r.rs1 := by
  ext i hi
  simp [rs1Field, encodeI_getLsbD, hi, show ¬15 + i < 7 by omega, show ¬15 + i < 12 by omega,
    show 15 + i < 20 by omega]

@[simp] theorem immField_encodeI (r : IFormat) : immField (encodeI r) = r.imm.extractLsb' 0 12 := by
  ext i hi
  simp [immField, encodeI_getLsbD, hi, show ¬20 + i < 7 by omega, show ¬20 + i < 12 by omega,
    show ¬20 + i < 15 by omega]

/-- All that the decoder can answer, by the fields it tests (40_decode.md R52). -/
theorem decode_cases (w : Word) :
    (opcode w = 0x33#7 ∧ funct3 w = 0#3 ∧ funct7 w = 0#7 ∧ decode w = .ok (.add (rRecord w))) ∨
    (opcode w = 0x33#7 ∧ funct3 w = 0#3 ∧ funct7 w = 0x20#7 ∧ decode w = .ok (.sub (rRecord w))) ∨
    (opcode w = 0x33#7 ∧ funct3 w = 1#3 ∧ funct7 w = 0#7 ∧ decode w = .ok (.sll (rRecord w))) ∨
    (opcode w = 0x13#7 ∧ funct3 w = 0#3 ∧ decode w = .ok (.addi (iRecord w))) ∨
    (opcode w ≠ 0x33#7 ∧ opcode w ≠ 0x13#7 ∧ decode w = .error (.unknownOpcode (opcode w))) ∨
    (((opcode w = 0x33#7 ∧ funct3 w ≠ 0#3 ∧ funct3 w ≠ 1#3) ∨ (opcode w = 0x13#7 ∧ funct3 w ≠ 0#3)) ∧
      decode w = .error (.unknownFunct3 (funct3 w))) ∨
    (opcode w = 0x33#7 ∧
      ((funct3 w = 0#3 ∧ funct7 w ≠ 0#7 ∧ funct7 w ≠ 0x20#7) ∨ (funct3 w = 1#3 ∧ funct7 w ≠ 0#7)) ∧
      decode w = .error (.unknownFunct7 (funct7 w))) := by
  unfold decode classifyR classifyI
  simp only [rRecord, iRecord]
  by_cases h1 : opcode w = 0x33#7
  · by_cases h3 : funct3 w = 0#3
    · by_cases h7 : funct7 w = 0#7
      · simp [h1, h3, h7]
      · by_cases h7' : funct7 w = 0x20#7 <;> simp [h1, h3, h7, h7']
    · by_cases h3' : funct3 w = 1#3
      · by_cases h7 : funct7 w = 0#7 <;> simp [h1, h3', h7]
      · simp [h1, h3, h3']
  · by_cases h1' : opcode w = 0x13#7
    · by_cases h3 : funct3 w = 0#3 <;> simp [h1', h3]
    · simp [h1, h1']

end Sys2Proof
end

