-- ==== Sys2Proof/Laws/State.lean ====
section
/-! SUPPORT. What each update of State does to each field, and reads after writes of the register file. -/

namespace Sys2Proof.Machine

/-- A read after a write: the value written at that index, the old value elsewhere. -/
@[simp] theorem regRead_regWrite (x : RegFile) (i j : RegIdx) (v : Word) :
    regRead (regWrite x i v) j = if j = i then v else regRead x j := by
  unfold regRead regWrite
  by_cases h : j = i
  · subst h
    simp
  · have hne : i.toNat ≠ j.toNat := fun e => h (BitVec.eq_of_toNat_eq e.symm)
    simp [h, Vector.getElem_set_ne, hne]

/-- Two register files that read alike everywhere are equal. -/
theorem regFile_ext {x y : RegFile} (h : ∀ i : RegIdx, regRead x i = regRead y i) : x = y := by
  ext1 n hn
  simpa [regRead] using h (BitVec.ofFin ⟨n, hn⟩)

@[simp] theorem State.writeReg_x (s : State) (i : RegIdx) (v : Word) :
    (s.writeReg i v).x = regWrite s.x i v := rfl

@[simp] theorem State.writeReg_words (s : State) (i : RegIdx) (v : Word) :
    (s.writeReg i v).words = s.words := rfl

@[simp] theorem State.readReg_mk (x : RegFile) (ws : List Word) (i : RegIdx) :
    (State.mk x ws).readReg i = regRead x i := rfl

/-- A read of a state's register after a write of one. -/
@[simp] theorem State.readReg_writeReg (s : State) (i j : RegIdx) (v : Word) :
    (s.writeReg i v).readReg j = if j = i then v else s.readReg j :=
  regRead_regWrite s.x i j v

@[simp] theorem State.presentNext_x (s : State) (w : Word) : (s.presentNext w).x = s.x := rfl

@[simp] theorem State.presentNext_words (s : State) (w : Word) :
    (s.presentNext w).words = w :: s.words := rfl

@[simp] theorem State.resetWith_words (f : Fin 32 → Word) : (State.resetWith f).words = [] := rfl

end Sys2Proof.Machine
end

