-- ==== Sys2Proof/Laws/Ops.lean ====
section
/-! SUPPORT. What each shared operation can do, said once: the driver's presentation of a word, the two execute frames
and the ALU's results as numbers. -/

namespace Sys2Proof.Machine

/-- The driver presents a word exactly when its list is not empty: the first one, leaving the rest. -/
theorem presented_eq_some {s s' : State} {w : Word} :
    s.presented = some (w, s') ↔ s.words = w :: s'.words ∧ s'.x = s.x := by
  obtain ⟨x, ws⟩ := s
  obtain ⟨x', ws'⟩ := s'
  cases ws <;> simp [State.presented, eq_comm, and_assoc, and_comm (a := x = x')]

/-- The driver presents no word exactly when its list is empty. -/
theorem presented_eq_none {s : State} : s.presented = none ↔ s.words = [] := by
  obtain ⟨x, ws⟩ := s
  cases ws <;> simp [State.presented]

/-- All that the R-format frame can do: it answers the state with `rd` written from the two sources as they were. -/
theorem executeR_eq_next {f : Word → Word → Word} {r : RFormat} {s t : State} :
    executeR f r s = .next t ↔ s.writeReg r.rd (f (s.readReg r.rs1) (s.readReg r.rs2)) = t := by
  simp [executeR]

/-- All that the I-format frame can do: it answers the state with `rd` written from the source as it was and the
immediate. -/
theorem executeI_eq_next {f : Word → Word → Word} {r : IFormat} {s t : State} :
    executeI f r s = .next t ↔ s.writeReg r.rd (f (s.readReg r.rs1) r.imm) = t := by
  simp [executeI]

theorem aluAdd_toNat (a b : Word) : (aluAdd a b).toNat = (a.toNat + b.toNat) % 2 ^ 32 :=
  BitVec.toNat_add a b

theorem aluSub_toNat (a b : Word) : (aluSub a b).toNat = (a.toNat + (2 ^ 32 - b.toNat)) % 2 ^ 32 := by
  rw [aluSub, BitVec.toNat_sub, Nat.add_comm]

/-- The shift amount is the operand modulo 32. -/
theorem shiftAmount_toNat (b : Word) : (shiftAmount b).toNat = b.toNat % 32 := by
  have h : shiftAmount b = b &&& BitVec.ofNat 32 (2 ^ 5 - 1) := rfl
  rw [h, BitVec.toNat_and, BitVec.toNat_ofNat, Nat.mod_eq_of_lt (by decide), Nat.and_two_pow_sub_one_eq_mod]

theorem aluSll_toNat (a b : Word) : (aluSll a b).toNat = a.toNat * 2 ^ (b.toNat % 32) % 2 ^ 32 := by
  simp [aluSll, BitVec.toNat_shiftLeft, shiftAmount_toNat, Nat.shiftLeft_eq]

theorem aluAddi_toNat (a imm : Word) : (aluAddi a imm).toNat = (a.toNat + imm.toNat) % 2 ^ 32 :=
  BitVec.toNat_add a imm

end Sys2Proof.Machine
end

