-- ==== Sys2Proof/Laws/PerInstr.lean ====
section
/-! SUPPORT. Families of facts about every operation as syntax, one lemma per constructor. -/

namespace Sys2Proof.Laws

/-- An R-format record with its fixed fields encodes to a word that has them in the places of the R-format mask. -/
theorem encodeR_and_mask {r : RFormat} {f3 : BitVec 3} {f7 : BitVec 7} (h : r.hasFixed f3 f7 = true) :
    encodeR r &&& 0xFE00707F#32 =
      encodeR { opcode := 0x33#7, rd := 0#5, funct3 := f3, rs1 := 0#5, rs2 := 0#5, funct7 := f7 } := by
  obtain ⟨⟨ho, h3⟩, h7⟩ : (r.opcode = 0x33#7 ∧ r.funct3 = f3) ∧ r.funct7 = f7 := by
    simpa [RFormat.hasFixed] using h
  apply BitVec.eq_of_getLsbD_eq
  intro i hi
  rw [BitVec.getLsbD_and, encodeR_getLsbD, encodeR_getLsbD, ho, h3, h7]
  interval_cases i <;> simp

/-- An I-format record with its fixed fields encodes to a word that has them in the places of the I-format mask. -/
theorem encodeI_and_mask {r : IFormat} {f3 : BitVec 3} (h : r.hasFixed f3 = true) :
    encodeI r &&& 0x0000707F#32 =
      encodeI { opcode := 0x13#7, rd := 0#5, funct3 := f3, rs1 := 0#5, imm := 0#32 } := by
  obtain ⟨⟨ho, h3⟩, -⟩ : (r.opcode = 0x13#7 ∧ r.funct3 = f3) ∧ r.imm.toNat ≤ 4095 := by
    simpa [IFormat.hasFixed] using h
  apply BitVec.eq_of_getLsbD_eq
  intro i hi
  rw [BitVec.getLsbD_and, encodeI_getLsbD, encodeI_getLsbD, ho, h3]
  interval_cases i <;> simp

/-- The word of a well-formed operation is of the operation's row of the opcode table (30_encoding.md R44). -/
def EncodeOfRow.Statement (i : Instr) : Prop :=
  i.wellFormed = true → i.pattern.admits (encode i) = true

theorem EncodeOfRow.add (r : RFormat) : EncodeOfRow.Statement (.add r) := fun h => by
  exact beq_iff_eq.mpr ((encodeR_and_mask h).trans rfl)

theorem EncodeOfRow.sub (r : RFormat) : EncodeOfRow.Statement (.sub r) := fun h => by
  exact beq_iff_eq.mpr ((encodeR_and_mask h).trans rfl)

theorem EncodeOfRow.sll (r : RFormat) : EncodeOfRow.Statement (.sll r) := fun h => by
  exact beq_iff_eq.mpr ((encodeR_and_mask h).trans rfl)

theorem EncodeOfRow.addi (r : IFormat) : EncodeOfRow.Statement (.addi r) := fun h => by
  exact beq_iff_eq.mpr ((encodeI_and_mask h).trans rfl)

end Sys2Proof.Laws
end

