-- ==== Sys2Proof/Laws/Run.lean ====
section
/-! SUPPORT. The host's run of this machine, unfolded one step, in the model's own types. -/

namespace Sys2Proof.Machine

theorem run_zero (s : State) : Host.Core.run Sys2Proof.core 0 s = .next s := rfl

/-- A run of one step more is that step, and then the run from the state it answers, if it answers one. -/
theorem run_succ (k : Nat) (s : State) :
    Host.Core.run Sys2Proof.core (k + 1) s =
      match step s with
      | .next t    => Host.Core.run Sys2Proof.core k t
      | .fault r   => .fault r
      | .refused r => .refused r := by
  cases h : step s with
  | next t =>
    have h' : Sys2Proof.core.step s = .next t := h
    simp only [Host.Core.run, h']
  | fault r =>
    have h' : Sys2Proof.core.step s = .fault r := h
    simp only [Host.Core.run, h']
  | refused r =>
    have h' : Sys2Proof.core.step s = .refused r := h
    simp only [Host.Core.run, h']

end Sys2Proof.Machine
end

