-- ==== Sys2Proof/Machine/Flags.lean ====
section
/-! DEFINITION. Nothing: the block has no flags, condition codes or predicates, and no operation sets a carry,
overflow, zero or sign flag (10_state.md R16). -/
end

