-- ==== Sys2Proof/Tests/Slice0.lean ====
section
/-! SUPPORT. The model's own tests, expected results from 95_test_vectors.md and the encodings of 30_encoding.md; and
for each statement with hypotheses a witness that meets them. -/

namespace Sys2Proof.Tests

open Sys2Proof.Machine

/-- A small state: `x1`, `x2`, `x3` as given, every other register 0. -/
def st (x1 x2 x3 : Word) (ws : List Word) : State :=
  { x := Vector.ofFn fun i => if i = 1 then x1 else if i = 2 then x2 else if i = 3 then x3 else 0, words := ws }

/-- A small state with `x0` as given, every other register 0. -/
def st0 (x0 : Word) (ws : List Word) : State :=
  { x := Vector.ofFn fun i => if i = 0 then x0 else 0, words := ws }

/-- The registers asked for after one outcome, none where it is no next state. -/
def regsAfter (o : Host.Outcome State Fault Refusal) (js : List RegIdx) : Option (List Word) :=
  match o with
  | .next t    => some (js.map t.readReg)
  | .fault _   => none
  | .refused _ => none

/-- The fault of one outcome. -/
def faultOf (o : Host.Outcome State Fault Refusal) : Option Fault :=
  match o with
  | .next _    => none
  | .fault r   => some r
  | .refused _ => none

/-- The decoder's answer as data that can be compared. -/
def decoded (w : Word) : Option Instr := (decode w).toOption

/-- The decoder's failure as data that can be compared. -/
def failureOf (w : Word) : Option DecodeFailure :=
  match decode w with
  | .ok _    => none
  | .error f => some f

/-! ### WellFormed: a well-formed term of each operation, an ill-formed one for each check -/

theorem test_wf_accepts :
    (Instr.add ⟨0x33, 31, 0, 31, 31, 0⟩).wellFormed ∧ (Instr.sub ⟨0x33, 0, 0, 0, 0, 0x20⟩).wellFormed ∧
    (Instr.sll ⟨0x33, 1, 1, 2, 3, 0⟩).wellFormed ∧ (Instr.addi ⟨0x13, 1, 0, 2, 4095⟩).wellFormed := by decide

theorem test_wf_refuses_r_opcode : (Instr.add ⟨0x13, 1, 0, 2, 3, 0⟩).wellFormed = false := by decide
theorem test_wf_refuses_add_funct3 : (Instr.add ⟨0x33, 1, 1, 2, 3, 0⟩).wellFormed = false := by decide
theorem test_wf_refuses_add_funct7 : (Instr.add ⟨0x33, 1, 0, 2, 3, 0x20⟩).wellFormed = false := by decide
theorem test_wf_refuses_sub_funct7 : (Instr.sub ⟨0x33, 1, 0, 2, 3, 0⟩).wellFormed = false := by decide
theorem test_wf_refuses_sll_funct3 : (Instr.sll ⟨0x33, 1, 0, 2, 3, 0⟩).wellFormed = false := by decide
theorem test_wf_refuses_sll_funct7 : (Instr.sll ⟨0x33, 1, 1, 2, 3, 0x20⟩).wellFormed = false := by decide
theorem test_wf_refuses_i_opcode : (Instr.addi ⟨0x33, 1, 0, 2, 0⟩).wellFormed = false := by decide
theorem test_wf_refuses_addi_funct3 : (Instr.addi ⟨0x13, 1, 1, 2, 0⟩).wellFormed = false := by decide
theorem test_wf_refuses_addi_imm : (Instr.addi ⟨0x13, 1, 0, 2, 4096⟩).wellFormed = false := by decide

/-! ### Decode: words written out bit by bit from the tables of 30_encoding.md R36, R37 and R44 -/

/-- funct7 0000000, rs2 00011, rs1 00010, funct3 000, rd 00001, opcode 0110011. -/
theorem test_decode_add :
    decoded 0b0000000_00011_00010_000_00001_0110011#32 = some (.add ⟨0x33, 1, 0, 2, 3, 0⟩) := by decide

/-- funct7 0100000, rs2 11101, rs1 11110, funct3 000, rd 11111, opcode 0110011 (section 2.1, 0x41DF0FB3). -/
theorem test_decode_sub :
    decoded 0b0100000_11101_11110_000_11111_0110011#32 = some (.sub ⟨0x33, 31, 0, 30, 29, 0x20⟩) := by decide

/-- funct7 0000000, rs2 11111, rs1 11111, funct3 001, rd 00000, opcode 0110011 (section 2.1, 0x01FF9033). -/
theorem test_decode_sll :
    decoded 0b0000000_11111_11111_001_00000_0110011#32 = some (.sll ⟨0x33, 0, 1, 31, 31, 0⟩) := by decide

/-- imm 100000000000, rs1 00110, funct3 000, rd 00101, opcode 0010011: the immediate is 2048, not negative
(section 2.1, 0x80030293). -/
theorem test_decode_addi :
    decoded 0b100000000000_00110_000_00101_0010011#32 = some (.addi ⟨0x13, 5, 0, 6, 2048⟩) := by decide

/-- Section 2.1: each failure kind, and the order of the tests. -/
theorem test_decode_failures :
    failureOf 0x00000032#32 = some (.unknownOpcode 0x32) ∧ failureOf 0xFFFFFFFF#32 = some (.unknownOpcode 0x7F) ∧
    failureOf 0x80000033#32 = some (.unknownFunct7 0x40) ∧ failureOf 0x403110B3#32 = some (.unknownFunct7 0x20) ∧
    failureOf 0xFE3130B3#32 = some (.unknownFunct3 3) ∧ failureOf 0x40115093#32 = some (.unknownFunct3 5) := by
  decide

/-- The encoder on the programs' assembly (section 3: P1 word 4, P1 word 5, P2 word 5, P3 word 4). -/
theorem test_encode :
    encode (.sub ⟨0x33, 4, 0, 1, 2, 0x20⟩) = 0x40208233#32 ∧ encode (.sll ⟨0x33, 5, 1, 3, 1, 0⟩) = 0x001192B3#32 ∧
    encode (.addi ⟨0x13, 4, 0, 3, 0x800⟩) = 0x80018213#32 ∧ encode (.add ⟨0x33, 4, 0, 3, 3, 0⟩) = 0x00318233#32 := by
  decide

/-! ### One step of each operation -/

/-- S8: `add x1, x2, x3` with x2 = 5, x3 = 7. -/
theorem test_add : regsAfter (step (st 0 5 7 [0x003100B3#32])) [1, 2, 3] = some [12, 5, 7] := by decide

/-- Sections 2.2 and 2.6: the carry out is discarded; `add x0, x0, x0` with x0 = 5 gives 10. -/
theorem test_add_wraps_and_x0 :
    regsAfter (step (st 0 0xFFFFFFFF 1 [0x003100B3#32])) [1] = some [0] ∧
    regsAfter (step (st0 5 [0x00000033#32])) [0] = some [10] := by decide

/-- S9: `sub x2, x2, x3` with x2 = 10, x3 = 4 reads rs1 before it writes. -/
theorem test_sub_self : regsAfter (step (st 0 10 4 [0x40310133#32])) [2, 3] = some [6, 4] := by decide

/-- Section 2.3: a borrow wraps. -/
theorem test_sub_wraps : regsAfter (step (st 0 0 1 [0x40310133#32])) [2] = some [0xFFFFFFFF] := by decide

/-- S10: `sll x1, x2, x3` with x2 = 1, x3 = 33 shifts by 1; by 32 shifts by 0. -/
theorem test_sll_truncates :
    regsAfter (step (st 0 1 33 [0x003110B3#32])) [1] = some [2] ∧
    regsAfter (step (st 0 1 32 [0x003110B3#32])) [1] = some [1] := by decide

/-- Section 2.4: `sll x2, x2, x2` with x2 = 3 gives 0x18; 0x12345678 shifted by 4. -/
theorem test_sll_same_register :
    regsAfter (step (st 0 3 0 [0x00211133#32])) [2] = some [0x18] ∧
    regsAfter (step (st 0 0x12345678 4 [0x003110B3#32])) [1] = some [0x23456780] := by decide

/-- Section 2.5: immediate 0xFFF adds 4095; 0xFFFFFFFF + 0xFFF wraps to 0xFFE. -/
theorem test_addi_unsigned :
    regsAfter (step (st0 0 [0xFFF00093#32])) [1] = some [0x00000FFF] ∧
    regsAfter (step (st0 0xFFFFFFFF [0xFFF00093#32])) [1] = some [0x00000FFE] := by decide

/-- Section 2.6: `addi x0, x0, 1` writes x0; `addi x1, x0, 100` with x0 = 7 gives 107 and leaves x0. -/
theorem test_addi_x0 :
    regsAfter (step (st0 0 [0x00100013#32])) [0] = some [1] ∧
    regsAfter (step (st0 7 [0x06400093#32])) [1, 0] = some [107, 7] := by decide

/-- Section 2.7: a word that does not decode is a fault with its failure. -/
theorem test_step_faults :
    faultOf (step (st 1 2 0 [0x00000063#32])) = some (.decodeFailure (.unknownOpcode 0x63)) ∧
    faultOf (step (st 1 2 0 [0x403150B3#32])) = some (.decodeFailure (.unknownFunct3 5)) := by decide

/-- The port level on S10 and on section 2.7's first word (10_state.md R21, R22). -/
theorem test_ports :
    (portCycle (st 0 1 33 []).x 1 0x003110B3#32)[1] = 2 ∧ (decoderPorts 0x003110B3#32).decOp = some 0b10 ∧
    (decoderPorts 0x00000063#32).decErr = 0b01 ∧ (decoderPorts 0x00000063#32).decErrVal = some 0x63 ∧
    (decoderPorts 0x00000063#32).decRd = none := by decide

/-- A table word placed after reset is the first instruction to run (log entry 2); nothing is said of its result, which
rests on `REG_INIT`. -/
theorem test_first_instruction :
    [0x00000033, 0x40000033, 0x00001033, 0x00000013].map
      (fun w => regsAfter (step (State.reset.withFetchWord 32 w)) []) = [some [], some [], some [], some []] := by
  decide

/-! ### Witnesses: for each statement with hypotheses, values that meet them together -/

theorem witness_ImmediateIsZeroExtended :
    decode 0xFFF00093#32 = .ok (.addi ⟨0x13, 1, 0, 0, 4095⟩) ∧ (0xFFF00093#32).getLsbD 31 = true ∧
    decode 0x80000013#32 = .ok (.addi ⟨0x13, 0, 0, 0, 2048⟩) ∧ (0x80000013#32).getLsbD 31 = true := by
  exact ⟨rfl, by decide, rfl, by decide⟩

theorem witness_DecodeOfEncode :
    (Instr.add ⟨0x33, 31, 0, 0, 31, 0⟩).wellFormed = true ∧ (Instr.sub ⟨0x33, 0, 0, 31, 0, 0x20⟩).wellFormed = true ∧
    (Instr.sll ⟨0x33, 31, 1, 31, 31, 0⟩).wellFormed = true ∧ (Instr.addi ⟨0x13, 31, 0, 31, 4095⟩).wellFormed = true := by
  decide

theorem witness_EncodeOfDecode :
    decode 0x41DF0FB3#32 = .ok (.sub ⟨0x33, 31, 0, 30, 29, 0x20⟩) ∧
    decode 0x7FFF8F93#32 = .ok (.addi ⟨0x13, 31, 0, 31, 2047⟩) := ⟨rfl, rfl⟩

theorem witness_DecodeFailureCausesAndCodes :
    decode 0x00000032#32 = .error (.unknownOpcode 0x32) ∧ decode 0x003120B3#32 = .error (.unknownFunct3 2) ∧
    decode 0x00111093#32 = .error (.unknownFunct3 1) ∧ decode 0xFE3100B3#32 = .error (.unknownFunct7 0x7F) ∧
    decode 0x403110B3#32 = .error (.unknownFunct7 0x20) := ⟨rfl, rfl, rfl, rfl, rfl⟩

/-- The two words of each clause differ in the bits the statement says do not matter. -/
theorem witness_FirstFailingTestDecides :
    (opcode 0x00000073#32 ≠ 0x33#7 ∧ opcode 0x00000073#32 ≠ 0x13#7 ∧ opcode 0xFFFFFFF3#32 = opcode 0x00000073#32) ∧
    (opcode 0x003120B3#32 = 0x33#7 ∧ funct3 0x003120B3#32 ≠ 0#3 ∧ funct3 0x003120B3#32 ≠ 1#3 ∧
      opcode 0xFE3120B3#32 = opcode 0x003120B3#32 ∧ funct3 0xFE3120B3#32 = funct3 0x003120B3#32) ∧
    decode 0x023100B3#32 = .error (.unknownFunct7 1) := by
  exact ⟨by decide, by decide, rfl⟩

theorem witness_NoCompressedEncodings :
    (0x00004501#32).extractLsb' 0 2 ≠ 0b11#2 ∧ (0x00000032#32).extractLsb' 0 2 ≠ 0b11#2 := by decide

theorem witness_StandardRiscvWordsOutsideTheSet :
    opcode 0x00000073#32 ∈ [0x03#7, 0x0F#7, 0x17#7, 0x1B#7, 0x23#7, 0x2F#7, 0x37#7, 0x3B#7, 0x63#7, 0x67#7, 0x6F#7,
      0x73#7] ∧
    (opcode 0x00517093#32 = 0x13#7 ∧ funct3 0x00517093#32 ∈ [1#3, 2#3, 3#3, 4#3, 5#3, 6#3, 7#3]) ∧
    (opcode 0x003120B3#32 = 0x33#7 ∧ funct3 0x003120B3#32 ∈ [2#3, 3#3, 4#3, 5#3, 6#3, 7#3]) ∧
    (opcode 0x023110B3#32 = 0x33#7 ∧ funct7 0x023110B3#32 = 1#7 ∧ funct3 0x023110B3#32 ∈ [0#3, 1#3]) := by decide

theorem witness_AddWritesTheModularSum :
    0x01FF8FB3#32 &&& 0xFE00707F#32 = 0x00000033#32 ∧
    (opcode 0x023100B3#32 = 0x33#7 ∧ funct3 0x023100B3#32 = 0#3 ∧ funct7 0x023100B3#32 ≠ 0#7 ∧
      funct7 0x023100B3#32 ≠ 0x20#7) := by decide

theorem witness_SubWritesTheModularDifference :
    (st 0 5 5 []).readReg 2 = (st 0 5 5 []).readReg 3 ∧ 0x403181B3#32 &&& 0xFE00707F#32 = 0x40000033#32 := by decide

theorem witness_SllShiftsByTheLowFiveBits :
    0x00211133#32 &&& 0xFE00707F#32 = 0x00001033#32 ∧
    (opcode 0x403110B3#32 = 0x33#7 ∧ funct3 0x403110B3#32 = 1#3 ∧ funct7 0x403110B3#32 ≠ 0#7) := by decide

/-- The second clause's inner hypothesis is met by x0 = 0xFFFFFFFF and immediate 0xFFF, whose sum 0xFFE is below. -/
theorem witness_AddiAddsTheUnsignedImmediate :
    0xFFF00093#32 &&& 0x0000707F#32 = 0x00000013#32 ∧
    (∃ t, step ((st0 0xFFFFFFFF []).presentNext 0xFFF00093#32) = .next t ∧
      (t.readReg 1).toNat < ((st0 0xFFFFFFFF []).readReg 0).toNat) ∧
    (opcode 0x00517093#32 = 0x13#7 ∧ funct3 0x00517093#32 ≠ 0#3) := by
  exact ⟨by decide, ⟨_, rfl, by decide⟩, by decide⟩

/-- The states agree on x2 and x3 and differ in x1. -/
theorem witness_ResultDependsOnTheSourcesAlone :
    (∀ j ∈ sourceRegs (.add ⟨0x33, 1, 0, 2, 3, 0⟩), (st 0 5 7 []).readReg j = (st 9 5 7 []).readReg j) ∧
    (st 0 5 7 []).readReg 1 ≠ (st 9 5 7 []).readReg 1 := by decide

/-- Each register moves up by one, x31 to x0. -/
theorem witness_RegistersAreInterchangeable :
    Function.Injective (fun j : RegIdx => j + 1#5) ∧
    ∀ j : RegIdx, (st 0 5 7 []).readReg (j + 1#5) = (st 5 7 0 []).readReg j := by
  exact ⟨fun a b h => by simpa using h, by decide⟩

theorem witness_RegisterZeroIsOrdinary :
    (decode 0x00100013#32 = .ok (.addi ⟨0x13, 0, 0, 0, 1⟩) ∧ destReg (.addi ⟨0x13, 0, 0, 0, 1⟩) = 0#5) ∧
    (decode 0x06400093#32 = .ok (.addi ⟨0x13, 1, 0, 0, 100⟩) ∧ destReg (.addi ⟨0x13, 1, 0, 0, 100⟩) ≠ 0#5) ∧
    (st0 7 []).readReg 0#5 = 7 := by
  exact ⟨⟨rfl, rfl⟩, ⟨rfl, by decide⟩, by decide⟩

theorem witness_StepHasExactlyTwoOutcomes :
    decode 0x003100B3#32 = .ok (.add ⟨0x33, 1, 0, 2, 3, 0⟩) ∧
    (∃ t, step ((st 0 5 7 []).presentNext 0x003100B3#32) = .next t) ∧
    decode 0x00000063#32 = .error (.unknownOpcode 0x63) := by
  exact ⟨rfl, ⟨_, rfl⟩, rfl⟩

theorem witness_StepRunsTheDecodedInstruction :
    ((st 0 5 7 [0x003100B3#32]).words = 0x003100B3#32 :: [] ∧
      decode 0x003100B3#32 = .ok (.add ⟨0x33, 1, 0, 2, 3, 0⟩)) ∧
    ((st 1 2 0 [0x00000063#32]).words = 0x00000063#32 :: [] ∧
      decode 0x00000063#32 = .error (.unknownOpcode 0x63)) := by
  exact ⟨⟨rfl, rfl⟩, ⟨rfl, rfl⟩⟩

theorem witness_NoWordLeavesTheStateAsItIs : (st 1 2 3 []).words = [] := rfl

theorem witness_OnlyADecodedWordChangesARegister :
    (∃ t, step (st 0 5 7 [0x003100B3#32]) = .next t ∧ t.readReg 1 ≠ (st 0 5 7 [0x003100B3#32]).readReg 1) ∧
    decode 0x403150B3#32 = .error (.unknownFunct3 5) := by
  exact ⟨⟨_, rfl, by decide⟩, rfl⟩

/-- `add x3, x1, x2` then `sub x4, x3, x2`: the second reads what the first wrote. -/
theorem witness_NextInstructionSeesTheWrite :
    decode 0x002081B3#32 = .ok (.add ⟨0x33, 3, 0, 1, 2, 0⟩) ∧
    decode 0x40218233#32 = .ok (.sub ⟨0x33, 4, 0, 3, 2, 0x20⟩) ∧
    3 ∈ sourceRegs (.sub ⟨0x33, 4, 0, 3, 2, 0x20⟩) := by
  exact ⟨rfl, rfl, by decide⟩

theorem witness_PlacedTableWordIsRunNext :
    decodeTableWord 32 0x00000013 = some (.addi ⟨0x13, 0, 0, 0, 0⟩) ∧ decodeTableWord 32 0x00000063 = none := by
  decide

theorem witness_DatapathPortsCarryTheResult :
    decode 0x80030293#32 = .ok (.addi ⟨0x13, 5, 0, 6, 2048⟩) ∧
    decode 0x00000063#32 = .error (.unknownOpcode 0x63) := ⟨rfl, rfl⟩

/-- Program P4: two words that decode, the failing third and a fourth never reached. -/
theorem witness_FailuresArePreciseAndFinal :
    (∃ x', [0x00108093#32, 0x00108133#32].foldlM blockStep (st 0 0 0 []).x = .ok x') ∧
    decode 0x00000063#32 = .error (.unknownOpcode 0x63) := by
  exact ⟨⟨_, rfl⟩, rfl⟩

theorem witness_WordsArePresentedInOrder :
    ∃ t : State, Host.Core.run Sys2Proof.core 1 (st 0 0 0 [0x00108093#32, 0x00000063#32]) = .next t :=
  ⟨_, rfl⟩

theorem witness_RunNeverStopsIffEveryWordDecodes :
    (st 0 0 0 [0x00108093#32, 0x00108133#32]).allDecode = true ∧
    (st 0 0 0 [0x00108093#32, 0x00000063#32]).allDecode = false := by decide

theorem witness_EveryStepKeepsAllDecode :
    (st 0 0 0 [0x00108093#32, 0x00108133#32]).allDecode = true ∧
    ∃ t, step (st 0 0 0 [0x00108093#32, 0x00108133#32]) = .next t := ⟨by decide, _, rfl⟩

/-- Register x3 holds 9; the words write x1 and x2 only. -/
theorem witness_EveryStepKeepsAnUnwrittenRegister :
    (st 0 0 9 [0x00108093#32, 0x00108133#32]).holdsReg 3 9 = true ∧
    ∃ t, step (st 0 0 9 [0x00108093#32, 0x00108133#32]) = .next t := ⟨by decide, _, rfl⟩

/-- The states differ in x3, which the words do not read; with the first list both runs go on, with the second both
fault at the second word. -/
theorem witness_UnreadRegisterDoesNotInterfere :
    (∀ i : RegIdx, i ≠ 3 → (st 1 2 9 []).readReg i = (st 1 2 8 []).readReg i) ∧
    (st 1 2 9 [0x00108093#32, 0x00108133#32]).words.all (readsNot 3) = true ∧
    (st 1 2 9 [0x00108093#32, 0x00000063#32]).words.all (readsNot 3) = true ∧
    (st 1 2 9 []).readReg 3 ≠ (st 1 2 8 []).readReg 3 := by decide

end Sys2Proof.Tests
end

namespace Sys2Proof

/-! ### The decoder, its patterns and the words that decode -/

theorem decodes_iff {w : Word} : Machine.decodes w = true ↔ ∃ i, decode w = .ok i := by
  cases h : decode w <;> simp [Machine.decodes, Except.toBool, h]

/-- An R-format word is rebuilt from its fields (30_encoding.md R36). -/
theorem encodeR_rRecord (w : Word) : encodeR (rRecord w) = w := by
  apply BitVec.eq_of_getLsbD_eq
  intro i hi
  rw [encodeR_getLsbD]
  interval_cases i <;> simp [rRecord, opcode, rdField, funct3, rs1Field, rs2Field, funct7]

/-- An I-format word is rebuilt from its fields (30_encoding.md R37). -/
theorem encodeI_iRecord (w : Word) : encodeI (iRecord w) = w := by
  apply BitVec.eq_of_getLsbD_eq
  intro i hi
  rw [encodeI_getLsbD]
  interval_cases i <;> simp [iRecord, opcode, rdField, funct3, rs1Field, immField]

/-- The immediate of an I-format word is one of 0..4095 (30_encoding.md R39). -/
theorem iRecord_imm_toNat_le (w : Word) : (iRecord w).imm.toNat ≤ 4095 := by
  have hlt := (immField w).isLt
  have himm : (iRecord w).imm.toNat = (immField w).toNat := BitVec.toNat_setWidth_of_le (by decide)
  omega

/-- A field that a mask covers is the field of the masked word. -/
theorem extractLsb'_of_and_eq {w m b : Word} (lo n : Nat) (hm : m.extractLsb' lo n = BitVec.allOnes n)
    (h : w &&& m = b) : w.extractLsb' lo n = b.extractLsb' lo n := by
  rw [← h, BitVec.extractLsb'_and, hm, BitVec.and_allOnes]

/-- What the R-format mask of R44 selects: opcode, funct3 and funct7. -/
theorem and_maskR_eq_iff (w : Word) (f3 : BitVec 3) (f7 : BitVec 7) :
    w &&& 0xFE00707F#32 =
      encodeR { opcode := 0x33#7, rd := 0#5, funct3 := f3, rs1 := 0#5, rs2 := 0#5, funct7 := f7 } ↔
    opcode w = 0x33#7 ∧ funct3 w = f3 ∧ funct7 w = f7 := by
  constructor
  · intro h
    exact ⟨(extractLsb'_of_and_eq 0 7 rfl h).trans (opcode_encodeR _),
      (extractLsb'_of_and_eq 12 3 rfl h).trans (funct3_encodeR _),
      (extractLsb'_of_and_eq 25 7 rfl h).trans (funct7_encodeR _)⟩
  · rintro ⟨ho, h3, h7⟩
    have hfix : (rRecord w).hasFixed f3 f7 = true := by simp [RFormat.hasFixed, rRecord, ho, h3, h7]
    simpa [encodeR_rRecord] using Laws.encodeR_and_mask hfix

/-- What the I-format mask of R44 selects: opcode and funct3. -/
theorem and_maskI_eq_iff (w : Word) (f3 : BitVec 3) :
    w &&& 0x0000707F#32 =
      encodeI { opcode := 0x13#7, rd := 0#5, funct3 := f3, rs1 := 0#5, imm := 0#32 } ↔
    opcode w = 0x13#7 ∧ funct3 w = f3 := by
  constructor
  · intro h
    exact ⟨(extractLsb'_of_and_eq 0 7 rfl h).trans (opcode_encodeI _),
      (extractLsb'_of_and_eq 12 3 rfl h).trans (funct3_encodeI _)⟩
  · rintro ⟨ho, h3⟩
    have hfix : (iRecord w).hasFixed f3 = true := by
      simp only [IFormat.hasFixed, iRecord_imm_toNat_le, decide_true, Bool.and_true]
      simp [iRecord, ho, h3]
    simpa [encodeI_iRecord] using Laws.encodeI_and_mask hfix

theorem addPattern_admits_iff (w : Word) :
    addPattern.admits w = true ↔ opcode w = 0x33#7 ∧ funct3 w = 0#3 ∧ funct7 w = 0#7 :=
  beq_iff_eq.trans (and_maskR_eq_iff w 0#3 0#7)

theorem subPattern_admits_iff (w : Word) :
    subPattern.admits w = true ↔ opcode w = 0x33#7 ∧ funct3 w = 0#3 ∧ funct7 w = 0x20#7 :=
  beq_iff_eq.trans (and_maskR_eq_iff w 0#3 0x20#7)

theorem sllPattern_admits_iff (w : Word) :
    sllPattern.admits w = true ↔ opcode w = 0x33#7 ∧ funct3 w = 1#3 ∧ funct7 w = 0#7 :=
  beq_iff_eq.trans (and_maskR_eq_iff w 1#3 0#7)

theorem addiPattern_admits_iff (w : Word) :
    addiPattern.admits w = true ↔ opcode w = 0x13#7 ∧ funct3 w = 0#3 :=
  beq_iff_eq.trans (and_maskI_eq_iff w 0#3)

end Sys2Proof

namespace Sys2Proof.Machine

/-! ### One step, by the word it presents -/

/-- The meaning of every operation in the terms of the spec's execute frame (40_decode.md R55). -/
theorem exec_eq_next (i : Instr) (s : State) : exec i s = .next { s with x := execute i s.x } := by
  cases i <;> rfl

theorem step_nil (x : RegFile) : step { x := x, words := [] } = .next { x := x, words := [] } := rfl

theorem step_cons_ok {w : Word} {i : Instr} (hd : decode w = .ok i) (x : RegFile) (ws : List Word) :
    step { x := x, words := w :: ws } = .next { x := execute i x, words := ws } := by
  simp [step, State.presented, hd, exec_eq_next]

theorem step_cons_error {w : Word} {f : DecodeFailure} (hd : decode w = .error f) (x : RegFile)
    (ws : List Word) : step { x := x, words := w :: ws } = .fault (.decodeFailure f) := by
  simp [step, State.presented, hd, deliverFailure]

/-! ### The run, by the words it presents -/

theorem run_nil (k : Nat) (x : RegFile) :
    Host.Core.run Sys2Proof.core k ({ x := x, words := [] } : State) =
      .next ({ x := x, words := [] } : State) := by
  induction k with
  | zero => rfl
  | succ k ih => simpa only [run_succ, step_nil] using ih

theorem run_succ_cons_ok {w : Word} {i : Instr} (hd : decode w = .ok i) (k : Nat) (x : RegFile)
    (ws : List Word) :
    Host.Core.run Sys2Proof.core (k + 1) ({ x := x, words := w :: ws } : State) =
      Host.Core.run Sys2Proof.core k ({ x := execute i x, words := ws } : State) := by
  rw [run_succ, step_cons_ok hd]

theorem run_succ_cons_error {w : Word} {f : DecodeFailure} (hd : decode w = .error f) (k : Nat)
    (x : RegFile) (ws : List Word) :
    Host.Core.run Sys2Proof.core (k + 1) ({ x := x, words := w :: ws } : State) =
      .fault (Fault.decodeFailure f) := by
  rw [run_succ, step_cons_error hd]

/-! ### A run never stops exactly when every word decodes -/

/-- A list of words that all decode is run to a next state, however many steps are taken. -/
theorem exists_run_eq_next {ws : List Word} (h : ws.all decodes = true) (k : Nat) (x : RegFile) :
    ∃ t : State, Host.Core.run Sys2Proof.core k ({ x := x, words := ws } : State) = .next t := by
  induction ws generalizing k x with
  | nil => exact ⟨_, run_nil k x⟩
  | cons w ws ih =>
    obtain ⟨hw, hws⟩ : decodes w = true ∧ ws.all decodes = true := by simpa using h
    obtain ⟨i, hd⟩ := decodes_iff.mp hw
    cases k with
    | zero => exact ⟨_, rfl⟩
    | succ k => rw [run_succ_cons_ok hd]; exact ih hws k _

/-- A run that has presented the whole list and answers a next state has met no word that fails. -/
theorem all_decodes_of_run_eq_next {ws : List Word} {x : RegFile} {t : State}
    (h : Host.Core.run Sys2Proof.core ws.length ({ x := x, words := ws } : State) = .next t) :
    ws.all decodes = true := by
  induction ws generalizing x with
  | nil => rfl
  | cons w ws ih =>
    rw [List.length_cons] at h
    cases hd : decode w with
    | ok i =>
      rw [run_succ_cons_ok hd] at h
      rw [List.all_cons, decodes_iff.mpr ⟨i, hd⟩, ih h, Bool.and_self]
    | error f =>
      rw [run_succ_cons_error hd] at h
      cases h

/-- Settles O36: one way the run never meets a failing word, the other way a run as long as the list has met every
word of it. -/
theorem runNeverStopsIffEveryWordDecodes : Obligations.RunNeverStopsIffEveryWordDecodes := by
  rintro ⟨x, ws⟩
  constructor
  · intro h k
    exact exists_run_eq_next h k x
  · intro h
    obtain ⟨t, ht⟩ := h ws.length
    exact all_decodes_of_run_eq_next ht

/-! ### The two outcomes of a presented word -/

/-- `dec_ok`, driven from the patterns of R44, is high exactly for the words that decode (10_state.md R21). -/
theorem decOkBit_eq_decodes (w : Word) : decOkBit w = decodes w := by
  rw [Bool.eq_iff_iff, decodes_iff]
  simp only [decOkBit, Bool.or_eq_true, addPattern_admits_iff, subPattern_admits_iff, sllPattern_admits_iff,
    addiPattern_admits_iff]
  obtain ⟨ho, h3, h7, hd⟩ | ⟨ho, h3, h7, hd⟩ | ⟨ho, h3, h7, hd⟩ | ⟨ho, h3, hd⟩ | ⟨ho, ho', hd⟩ |
    ⟨⟨ho, h3, h3'⟩ | ⟨ho, h3⟩, hd⟩ | ⟨ho, ⟨h3, h7, h7'⟩ | ⟨h3, h7⟩, hd⟩ := decode_cases w <;> simp [*]

/-- With `dec_ok = 0` the write port is idle, so a cycle leaves the register file (10_state.md R22). -/
theorem portCycle_of_not_decOk {w : Word} (h : decOkBit w = false) (x : RegFile) (req : BitVec 1) :
    portCycle x req w = x := by
  have hwe : (datapathPorts x req (decoderPorts w)).we = 0#1 := by simp [datapathPorts, decoderPorts, h]
  simp [portCycle, commitWrite, hwe]

theorem portCycle_of_decode_error {w : Word} {f : DecodeFailure} (hd : decode w = .error f) (x : RegFile)
    (req : BitVec 1) : portCycle x req w = x := by
  refine portCycle_of_not_decOk ?_ x req
  rw [decOkBit_eq_decodes, decodes, hd]
  rfl

/-- A step of any state answers a next state or a decode failure, never a refusal (00_scope.md R9). -/
theorem step_ne_refused (s : State) (r : Refusal) : step s ≠ .refused r := by
  obtain ⟨x, _ | ⟨w, ws⟩⟩ := s
  · rw [step_nil]
    nofun
  · cases hd : decode w with
    | ok i =>
      rw [step_cons_ok hd]
      nofun
    | error f =>
      rw [step_cons_error hd]
      nofun

theorem step_presentNext_ok {w : Word} {i : Instr} (hd : decode w = .ok i) (s : State) :
    step (s.presentNext w) = .next { s with x := execute i s.x } :=
  step_cons_ok hd s.x s.words

theorem step_presentNext_error {w : Word} {f : DecodeFailure} (hd : decode w = .error f) (s : State) :
    step (s.presentNext w) = .fault (.decodeFailure f) :=
  step_cons_error hd s.x s.words

/-- A step on a presented word answers a next state exactly when the word decodes. -/
theorem step_presentNext_next_iff (s : State) (w : Word) :
    (∃ t, step (s.presentNext w) = .next t) ↔ ∃ i, decode w = .ok i := by
  cases hd : decode w with
  | ok i => simp [step_presentNext_ok hd]
  | error f => simp [step_presentNext_error hd]

/-- A step on a presented word is the fault with a failure exactly when the word decodes to it. -/
theorem step_presentNext_fault_iff (s : State) (w : Word) (f : DecodeFailure) :
    step (s.presentNext w) = .fault (.decodeFailure f) ↔ decode w = .error f := by
  cases hd : decode w with
  | ok i => simp [step_presentNext_ok hd]
  | error g => simp [step_presentNext_error hd]

/-- Settles O25, by whether the presented word decodes. -/
theorem stepHasExactlyTwoOutcomes : Obligations.StepHasExactlyTwoOutcomes := by
  refine ⟨step_presentNext_next_iff, ?_, step_presentNext_fault_iff, ?_, step_ne_refused⟩
  · intro s t w i hd ht
    rw [step_presentNext_ok hd] at ht
    cases ht
    rfl
  · intro x w f hd
    exact portCycle_of_decode_error hd x 1#1

end Sys2Proof.Machine

namespace Sys2Proof.Machine

/-! ### What the decoder's answer says of the ports' signals -/

/-- A word that decodes, decodes to one of four records of its own fields, and `dec_op` carries that operation's code
(10_state.md R21; 40_decode.md R52). -/
theorem decode_ok_cases {w : Word} {i : Instr} (hd : decode w = .ok i) :
    (i = .add (rRecord w) ∧ decOpCode w = 0b00#2) ∨ (i = .sub (rRecord w) ∧ decOpCode w = 0b01#2) ∨
    (i = .sll (rRecord w) ∧ decOpCode w = 0b10#2) ∨ (i = .addi (iRecord w) ∧ decOpCode w = 0b11#2) := by
  simp only [decOpCode, addPattern_admits_iff, subPattern_admits_iff, sllPattern_admits_iff]
  obtain ⟨ho, h3, h7, h⟩ | ⟨ho, h3, h7, h⟩ | ⟨ho, h3, h7, h⟩ | ⟨ho, h3, h⟩ | ⟨-, -, h⟩ | ⟨-, h⟩ | ⟨-, -, h⟩ :=
    decode_cases w <;> cases h.symm.trans hd <;> simp [*]

/-- A word that does not decode carries one of its own fields, and the causes of the ports' decoder single out that
failure (60_exceptions.md R64). -/
theorem decode_error_cases {w : Word} {f : DecodeFailure} (hd : decode w = .error f) :
    (f = .unknownOpcode (opcode w) ∧ opcodeUnknown w = true) ∨
    (f = .unknownFunct3 (funct3 w) ∧ opcodeUnknown w = false ∧ funct3Unknown w = true) ∨
    (f = .unknownFunct7 (funct7 w) ∧ opcodeUnknown w = false ∧ funct3Unknown w = false) := by
  simp only [opcodeUnknown, funct3Unknown]
  obtain ⟨-, -, -, h⟩ | ⟨-, -, -, h⟩ | ⟨-, -, -, h⟩ | ⟨-, -, h⟩ | ⟨ho, ho', h⟩ |
    ⟨⟨ho, h3, h3'⟩ | ⟨ho, h3⟩, h⟩ | ⟨ho, ⟨h3, -, -⟩ | ⟨h3, -⟩, h⟩ :=
    decode_cases w <;> cases h.symm.trans hd <;> simp [*]

theorem decOkBit_of_decode_ok {w : Word} {i : Instr} (hd : decode w = .ok i) : decOkBit w = true := by
  rw [decOkBit_eq_decodes]
  exact decodes_iff.mpr ⟨i, hd⟩

theorem decOkBit_of_decode_error {w : Word} {f : DecodeFailure} (hd : decode w = .error f) :
    decOkBit w = false := by
  rw [decOkBit_eq_decodes, decodes, hd]
  rfl

theorem destReg_of_decode_ok {w : Word} {i : Instr} (hd : decode w = .ok i) : destReg i = rdField w := by
  obtain ⟨rfl, -⟩ | ⟨rfl, -⟩ | ⟨rfl, -⟩ | ⟨rfl, -⟩ := decode_ok_cases hd <;> rfl

/-- The ALU behind `dec_op`, fed from the word's fields, answers the result of the decoded operation
(10_state.md R22). -/
theorem alu_of_decode_ok {w : Word} {i : Instr} (hd : decode w = .ok i) (x : RegFile) :
    alu (decOpCode w) (regRead x (rs1Field w)) (regRead x (rs2Field w)) ((immField w).setWidth 32) =
      aluResult i x := by
  obtain ⟨rfl, hop⟩ | ⟨rfl, hop⟩ | ⟨rfl, hop⟩ | ⟨rfl, hop⟩ := decode_ok_cases hd <;> rw [hop] <;> rfl

/-! ### The ports for a word that decodes and for one that does not -/

theorem decoderPorts_of_decode_ok {w : Word} {i : Instr} (hd : decode w = .ok i) :
    decoderPorts w =
      { decOk := 1#1, decOp := some (decOpCode w), decRd := some (rdField w), decRs1 := some (rs1Field w)
        decRs2 := some (rs2Field w), decImm := some ((immField w).setWidth 32), decErr := 0b00#2
        decErrVal := none } := by
  simp [decoderPorts, driven, decOkBit_of_decode_ok hd]

theorem decoderPorts_of_decode_error {w : Word} {f : DecodeFailure} (hd : decode w = .error f) :
    decoderPorts w =
      { decOk := 0#1, decOp := none, decRd := none, decRs1 := none, decRs2 := none, decImm := none
        decErr := failureCode f, decErrVal := some (failureValue f) } := by
  obtain ⟨rfl, h1⟩ | ⟨rfl, h1, h2⟩ | ⟨rfl, h1, h2⟩ := decode_error_cases hd <;>
    simp [decoderPorts, driven, decOkBit_of_decode_error hd, failureCode, failureValue, *]

theorem datapathPorts_of_decode_ok {w : Word} {i : Instr} (hd : decode w = .ok i) (x : RegFile) :
    datapathPorts x 1#1 (decoderPorts w) =
      { ra1 := some (rs1Field w), rd1 := some (regRead x (rs1Field w))
        ra2 := some (rs2Field w), rd2 := some (regRead x (rs2Field w))
        aluY := some (aluResult i x), we := 1#1, wa := some (destReg i), wd := some (aluResult i x) } := by
  rw [decoderPorts_of_decode_ok hd]
  simp [datapathPorts, alu_of_decode_ok hd, destReg_of_decode_ok hd]

/-- A cycle with a step requested runs the decoded operation on the register file (10_state.md R22). -/
theorem portCycle_of_decode_ok {w : Word} {i : Instr} (hd : decode w = .ok i) (x : RegFile) :
    portCycle x 1#1 w = execute i x := by
  rw [portCycle, datapathPorts_of_decode_ok hd]
  rfl

/-- Settles O31, by whether the word decodes: the step and the cycle both run `execute`, or both leave the register
file and report the failure. -/
theorem portCycleRefinesTheStep : Obligations.PortCycleRefinesTheStep := by
  intro x w ws
  cases hd : decode w with
  | ok i =>
    rw [step_cons_ok hd, decoderPorts_of_decode_ok hd]
    exact ⟨portCycle_of_decode_ok hd x, rfl, rfl⟩
  | error f =>
    rw [step_cons_error hd, decoderPorts_of_decode_error hd]
    exact ⟨portCycle_of_decode_error hd x 1#1, rfl, rfl, rfl⟩

/-- Settles O29, by the decoder's answer. -/
theorem decoderPortsCarryTheDecodedWord : Obligations.DecoderPortsCarryTheDecodedWord := by
  intro w
  cases hd : decode w with
  | ok i =>
    rw [decoderPorts_of_decode_ok hd]
    obtain ⟨rfl, hop⟩ | ⟨rfl, hop⟩ | ⟨rfl, hop⟩ | ⟨rfl, hop⟩ := decode_ok_cases hd <;> rw [hop] <;> rfl
  | error f =>
    rw [decoderPorts_of_decode_error hd]
    cases f <;> rfl

/-- Settles O30: the ports of a word that decodes, and `we = dec_ok = 0` for one that does not. -/
theorem datapathPortsCarryTheResult : Obligations.DatapathPortsCarryTheResult := by
  refine ⟨fun x w i hd => datapathPorts_of_decode_ok hd x, fun x w f hd => ?_⟩
  rw [decoderPorts_of_decode_error hd]
  exact BitVec.and_zero

/-! ### All that a step can do, and what it keeps -/

/-- A step answers a next state in two ways: with no word left the same state, otherwise the first word's operation
executed and that word taken off the list (40_decode.md R54). -/
theorem step_eq_next_iff {s t : State} :
    step s = .next t ↔
      (s.words = [] ∧ t = s) ∨
      ∃ w ws i, s.words = w :: ws ∧ decode w = .ok i ∧ t = { x := execute i s.x, words := ws } := by
  obtain ⟨x, _ | ⟨w, ws⟩⟩ := s
  · simp [step_nil, eq_comm]
  · cases hd : decode w with
    | ok i => simp [step_cons_ok hd, hd, eq_comm]
    | error f => simp [step_cons_error hd, hd]

theorem words_of_step_eq_next {s t : State} (h : step s = .next t) : t.words = s.words.tail := by
  obtain ⟨hs, rfl⟩ | ⟨w, ws, i, hs, -, rfl⟩ := step_eq_next_iff.mp h <;> simp [hs]

/-- What is true of every word still to be presented stays true of every word. -/
theorem words_all_of_step_eq_next {s t : State} {p : Word → Bool} (hp : s.words.all p = true)
    (h : step s = .next t) : t.words.all p = true := by
  rw [words_of_step_eq_next h, List.all_eq_true]
  exact fun w hw => List.all_eq_true.mp hp w (List.mem_of_mem_tail hw)

/-- The registers after an operation: the result at `rd`, every other as it was (40_decode.md R55). -/
@[simp] theorem regRead_execute (i : Instr) (x : RegFile) (j : RegIdx) :
    regRead (execute i x) j = if j = destReg i then aluResult i x else regRead x j :=
  regRead_regWrite x (destReg i) j (aluResult i x)

/-- A step that changes a register ran a decoded word whose `rd` it is, and left the result there
(10_state.md R14). -/
theorem decode_of_step_changes_reg {s t : State} {j : RegIdx} (h : step s = .next t)
    (hj : t.readReg j ≠ s.readReg j) :
    ∃ w ws i, s.words = w :: ws ∧ decode w = .ok i ∧ j = destReg i ∧ t.readReg j = aluResult i s.x := by
  obtain ⟨-, rfl⟩ | ⟨w, ws, i, hs, hd, rfl⟩ := step_eq_next_iff.mp h
  · exact absurd rfl hj
  · have hjd : j = destReg i := by
      by_contra hne
      exact hj (by simp [hne, State.readReg])
    exact ⟨w, ws, i, hs, hd, hjd, by simp [hjd]⟩

theorem destReg_ne_of_writesNot {j : RegIdx} {w : Word} {i : Instr} (hw : writesNot j w = true)
    (hd : decode w = .ok i) : destReg i ≠ j := by
  simpa [writesNot, hd] using hw

/-- A step leaves a register that no word still to be presented writes. -/
theorem readReg_of_writesNot {s t : State} {j : RegIdx} (hw : s.words.all (writesNot j) = true)
    (h : step s = .next t) : t.readReg j = s.readReg j := by
  by_contra hne
  obtain ⟨w, ws, i, hs, hd, hj, -⟩ := decode_of_step_changes_reg h hne
  have hw' : writesNot j w = true := List.all_eq_true.mp hw w (by simp [hs])
  exact destReg_ne_of_writesNot hw' hd hj.symm

/-- Settles O38: the words that do not write `j` leave it, and they stay such words. -/
theorem everyStepKeepsAnUnwrittenRegister : Obligations.EveryStepKeepsAnUnwrittenRegister := by
  intro j v s t hs h
  obtain ⟨hv, hw⟩ : s.readReg j = v ∧ s.words.all (writesNot j) = true := by
    simpa only [State.holdsReg, Bool.and_eq_true, beq_iff_eq] using hs
  simp only [State.holdsReg, Bool.and_eq_true, beq_iff_eq]
  exact ⟨(readReg_of_writesNot hw h).trans hv, words_all_of_step_eq_next hw h⟩

/-- Settles O37: a step only takes a word off the list. -/
theorem everyStepKeepsAllDecode : Obligations.EveryStepKeepsAllDecode :=
  fun _ _ hs h => words_all_of_step_eq_next hs h

/-- Settles O26, from all that a step can do. -/
theorem onlyADecodedWordChangesARegister : Obligations.OnlyADecodedWordChangesARegister := by
  refine ⟨fun s t j h hj => decode_of_step_changes_reg h hj, fun s w f hd => ⟨fun t => ?_, ?_⟩⟩
  · rw [step_presentNext_error hd]
    nofun
  · exact portCycle_of_decode_error hd s.x 1#1

/-! ### The words along a run -/

/-- A run of one step more answers a next state exactly when that step and then the rest of the run do. -/
theorem run_succ_eq_next_iff {k : Nat} {s t : State} :
    Host.Core.run Sys2Proof.core (k + 1) s = .next t ↔
      ∃ u, step s = .next u ∧ Host.Core.run Sys2Proof.core k u = .next t := by
  rw [run_succ]
  cases step s <;> simp

/-- Settles O35, by induction on the number of steps. -/
theorem wordsArePresentedInOrder : Obligations.WordsArePresentedInOrder := by
  intro k
  induction k with
  | zero =>
    intro s t h
    rw [run_zero] at h
    cases h
    rfl
  | succ k ih =>
    intro s t h
    obtain ⟨u, hu, ht⟩ := run_succ_eq_next_iff.mp h
    rw [ih u t ht, words_of_step_eq_next hu, List.drop_tail]

/-! ### No register is special -/

@[simp] theorem destReg_renameRegs (π : RegIdx → RegIdx) (i : Instr) :
    destReg (renameRegs π i) = π (destReg i) := by
  cases i <;> rfl

/-- The renamed operation reads, in a register file renamed in the same way, the values the operation reads. -/
theorem aluResult_renameRegs {π : RegIdx → RegIdx} {x x' : RegFile}
    (hx : ∀ j, regRead x' (π j) = regRead x j) (i : Instr) :
    aluResult (renameRegs π i) x' = aluResult i x := by
  cases i <;> simp [renameRegs, aluResult, hx]

/-- Settles O19: the renamed operation has the same result and writes it at the renamed register; an injective renaming
sends no other register there. -/
theorem registersAreInterchangeable : Obligations.RegistersAreInterchangeable := by
  intro π i s s' hπ hs
  refine ⟨_, _, exec_eq_next i s, exec_eq_next (renameRegs π i) s', fun j => ?_⟩
  simp only [State.readReg_mk, regRead_execute, destReg_renameRegs, hπ.eq_iff, aluResult_renameRegs hs]
  exact if_congr Iff.rfl rfl (hs j)

theorem readReg_resetWith (f : Fin 32 → Word) (i : RegIdx) :
    (State.resetWith f).readReg i = f i.toFin := by
  simp [State.resetWith, regRead]

/-- Settles O20: the frame of the executed operation at `x[0]`, ADDI with a zero immediate as a copy, and the reset
state. -/
theorem registerZeroIsOrdinary : Obligations.RegisterZeroIsOrdinary := by
  refine ⟨fun s w i hd => ⟨_, step_presentNext_ok hd s, ?_⟩, fun v s hv => ⟨_, exec_eq_next _ s, ?_⟩,
    fun f => readReg_resetWith f 0#5⟩
  · simp [eq_comm, State.readReg]
  · rw [← hv]
    simp [destReg, aluResult, aluAddi, State.readReg]

end Sys2Proof.Machine

namespace Sys2Proof.Machine

/-! ### The run as the left fold of the block's step -/

theorem foldlM_blockStep_cons_ok {w : Word} {i : Instr} (hd : decode w = .ok i) (x : RegFile) (ws : List Word) :
    (w :: ws).foldlM blockStep x = ws.foldlM blockStep (execute i x) := by
  simp only [List.foldlM_cons, blockStep, hd]
  rfl

theorem foldlM_blockStep_cons_error {w : Word} {f : DecodeFailure} (hd : decode w = .error f) (x : RegFile)
    (ws : List Word) : (w :: ws).foldlM blockStep x = .error f := by
  simp only [List.foldlM_cons, blockStep, hd]
  rfl

/-- Settles O33, by induction on the list: a word that decodes moves the run and the fold to the same register file, one
that does not ends both. -/
theorem runIsTheLeftFold : Obligations.RunIsTheLeftFold := by
  intro x ws
  induction ws generalizing x with
  | nil => rfl
  | cons w ws ih =>
    cases hd : decode w with
    | ok i =>
      rw [List.length_cons, run_succ_cons_ok hd, foldlM_blockStep_cons_ok hd]
      exact ih (execute i x)
    | error f => rw [List.length_cons, run_succ_cons_error hd, foldlM_blockStep_cons_error hd]

/-! ### What an operation and a run read -/

/-- The result of an operation is a function of its source registers (20_memory.md R27). -/
theorem aluResult_congr {i : Instr} {x x' : RegFile} (h : ∀ j ∈ sourceRegs i, regRead x j = regRead x' j) :
    aluResult i x = aluResult i x' := by
  cases i <;> simp_all [sourceRegs, aluResult]

/-- Settles O18: `exec` leaves the result at `rd`, and equal sources give equal results. -/
theorem resultDependsOnTheSourcesAlone : Obligations.ResultDependsOnTheSourcesAlone := by
  intro i s s' hs
  refine ⟨_, _, exec_eq_next i s, exec_eq_next i s', ?_⟩
  simp only [State.readReg_mk, regRead_execute, if_true]
  exact aluResult_congr hs

/-- The two register files agree everywhere but at `j`. -/
def AgreeExceptAt (j : RegIdx) (x x' : RegFile) : Prop := ∀ i, i ≠ j → regRead x i = regRead x' i

theorem not_mem_sourceRegs_of_readsNot {j : RegIdx} {w : Word} {i : Instr} (hw : readsNot j w = true)
    (hd : decode w = .ok i) : j ∉ sourceRegs i := by
  simpa [readsNot, hd] using hw

/-- An operation that does not read `j` computes the same result on both sides, so no difference spreads from `j`. -/
theorem AgreeExceptAt.execute {j : RegIdx} {x x' : RegFile} {i : Instr} (h : AgreeExceptAt j x x')
    (hj : j ∉ sourceRegs i) : AgreeExceptAt j (execute i x) (execute i x') := by
  have hres : aluResult i x = aluResult i x' := aluResult_congr fun m hm => h m (ne_of_mem_of_not_mem hm hj)
  intro m hm
  simp only [regRead_execute, hres, h m hm]

/-- Two runs of one list that does not read `j`, from register files that agree except at `j`: both answer a next state
with the same words left and such register files, or both fault alike. -/
theorem run_agreeExceptAt {j : RegIdx} {ws : List Word} (hws : ws.all (readsNot j) = true) (k : Nat)
    {x x' : RegFile} (hx : AgreeExceptAt j x x') :
    (∃ y y' vs, AgreeExceptAt j y y' ∧
      Host.Core.run Sys2Proof.core k ({ x := x, words := ws } : State) = .next ({ x := y, words := vs } : State) ∧
      Host.Core.run Sys2Proof.core k ({ x := x', words := ws } : State) = .next ({ x := y', words := vs } : State)) ∨
    ∃ f : Fault, Host.Core.run Sys2Proof.core k ({ x := x, words := ws } : State) = .fault f ∧
      Host.Core.run Sys2Proof.core k ({ x := x', words := ws } : State) = .fault f := by
  induction ws generalizing k x x' with
  | nil => exact .inl ⟨x, x', [], hx, run_nil k x, run_nil k x'⟩
  | cons w ws ih =>
    obtain ⟨hw, hws⟩ : readsNot j w = true ∧ ws.all (readsNot j) = true := by simpa using hws
    cases k with
    | zero => exact .inl ⟨x, x', w :: ws, hx, rfl, rfl⟩
    | succ k =>
      cases hd : decode w with
      | ok i =>
        rw [run_succ_cons_ok hd, run_succ_cons_ok hd]
        exact ih hws k (hx.execute (not_mem_sourceRegs_of_readsNot hw hd))
      | error f => exact .inr ⟨_, run_succ_cons_error hd k x ws, run_succ_cons_error hd k x' ws⟩

/-- Settles O39, by induction on the list of words. -/
theorem unreadRegisterDoesNotInterfere : Obligations.UnreadRegisterDoesNotInterfere := by
  rintro j k ⟨x, ws⟩ ⟨x', ws'⟩ (rfl : ws = ws') hx hws
  obtain ⟨y, y', vs, hy, h, h'⟩ | hf := run_agreeExceptAt hws k (x := x) (x' := x') hx
  · exact .inl ⟨_, _, h, h', rfl, hy⟩
  · exact .inr hf

end Sys2Proof.Machine

namespace Sys2Proof

/-! ### The round trip from a well-formed operation -/

@[simp] theorem rRecord_encodeR (r : RFormat) : rRecord (encodeR r) = r := by
  simp [rRecord]

/-- The encoder keeps an immediate of 0..4095 whole (30_encoding.md R39). -/
theorem iRecord_encodeI {r : IFormat} (h : r.imm.toNat ≤ 4095) : iRecord (encodeI r) = r := by
  have himm : (r.imm.extractLsb' 0 12).setWidth 32 = r.imm := by
    apply BitVec.eq_of_toNat_eq
    simp only [BitVec.toNat_setWidth, BitVec.extractLsb'_toNat, Nat.shiftRight_zero]
    omega
  simp [iRecord, himm]

theorem decode_of_opcodeR {w : Word} (ho : opcode w = 0x33#7) : decode w = classifyR (rRecord w) :=
  if_pos ho

theorem decode_of_opcodeI {w : Word} (ho : opcode w = 0x13#7) : decode w = classifyI (iRecord w) := by
  simp [decode, ho]

/-- A word of ADD's row decodes to ADD (30_encoding.md R44). -/
theorem decode_of_addPattern_admits {w : Word} (h : addPattern.admits w = true) :
    decode w = .ok (.add (rRecord w)) := by
  obtain ⟨ho, h3, h7⟩ := (addPattern_admits_iff w).mp h
  rw [decode_of_opcodeR ho]
  simp [classifyR, rRecord, h3, h7]

/-- A word of SUB's row decodes to SUB (30_encoding.md R44). -/
theorem decode_of_subPattern_admits {w : Word} (h : subPattern.admits w = true) :
    decode w = .ok (.sub (rRecord w)) := by
  obtain ⟨ho, h3, h7⟩ := (subPattern_admits_iff w).mp h
  rw [decode_of_opcodeR ho]
  simp [classifyR, rRecord, h3, h7]

/-- A word of SLL's row decodes to SLL (30_encoding.md R44). -/
theorem decode_of_sllPattern_admits {w : Word} (h : sllPattern.admits w = true) :
    decode w = .ok (.sll (rRecord w)) := by
  obtain ⟨ho, h3, h7⟩ := (sllPattern_admits_iff w).mp h
  rw [decode_of_opcodeR ho]
  simp [classifyR, rRecord, h3, h7]

/-- A word of ADDI's row decodes to ADDI (30_encoding.md R44). -/
theorem decode_of_addiPattern_admits {w : Word} (h : addiPattern.admits w = true) :
    decode w = .ok (.addi (iRecord w)) := by
  obtain ⟨ho, h3⟩ := (addiPattern_admits_iff w).mp h
  rw [decode_of_opcodeI ho]
  simp [classifyI, iRecord, h3]

theorem imm_toNat_le_of_wellFormed {r : IFormat} (h : (Instr.addi r).wellFormed = true) :
    r.imm.toNat ≤ 4095 := by
  obtain ⟨-, himm⟩ := Bool.and_eq_true_iff.mp h
  exact of_decide_eq_true himm

/-- Settles O4, by the operation: its word is of its row of the opcode table, a word of that row decodes to it, and the
fields read back are the record's. -/
theorem decodeOfEncode : Obligations.DecodeOfEncode := by
  intro i hi
  cases i with
  | add r => rw [decode_of_addPattern_admits (Laws.EncodeOfRow.add r hi), encode, rRecord_encodeR]
  | sub r => rw [decode_of_subPattern_admits (Laws.EncodeOfRow.sub r hi), encode, rRecord_encodeR]
  | sll r => rw [decode_of_sllPattern_admits (Laws.EncodeOfRow.sll r hi), encode, rRecord_encodeR]
  | addi r =>
    rw [decode_of_addiPattern_admits (Laws.EncodeOfRow.addi r hi), encode,
      iRecord_encodeI (imm_toNat_le_of_wellFormed hi)]

/-- Settles O2: a word is rebuilt from its fields in either format. -/
theorem formatFieldsTileTheWord : Obligations.FormatFieldsTileTheWord :=
  fun w => ⟨encodeR_rRecord w, encodeI_iRecord w⟩

/-! ### The immediate -/

/-- The immediate is the word shifted right by 20, with zeros entering (30_encoding.md R39). -/
theorem iRecord_imm_eq_ushiftRight (w : Word) : (iRecord w).imm = w >>> 20 := by
  have hw := w.isLt
  apply BitVec.eq_of_toNat_eq
  simp only [iRecord, immField, BitVec.toNat_setWidth, BitVec.extractLsb'_toNat, BitVec.toNat_ushiftRight,
    Nat.shiftRight_eq_div_pow]
  omega

/-- A word with `insn[31] = 1` carries an immediate of 2048 or more (30_encoding.md R39). -/
theorem le_iRecord_imm_toNat {w : Word} (h : w.getLsbD 31 = true) : 2048 ≤ (iRecord w).imm.toNat := by
  have hw : 2 ^ 31 ≤ w.toNat := BitVec.le_toNat_of_msb_true (w.msb_eq_getLsbD_last.trans h)
  rw [iRecord_imm_eq_ushiftRight, BitVec.toNat_ushiftRight, Nat.shiftRight_eq_div_pow]
  omega

/-- Settles O3: the record of a word that decodes to ADDI is the word's I-format record. -/
theorem immediateIsZeroExtended : Obligations.ImmediateIsZeroExtended := by
  intro w r hd
  obtain ⟨rfl, -⟩ : r = iRecord w ∧ Machine.decOpCode w = 0b11#2 := by simpa using Machine.decode_ok_cases hd
  exact ⟨rfl, iRecord_imm_eq_ushiftRight w, iRecord_imm_toNat_le w, le_iRecord_imm_toNat⟩

/-! ### The rows of the opcode table -/

theorem pattern_admits_of_decode_ok {w : Word} {i : Instr} (hd : decode w = .ok i) :
    i.pattern.admits w = true := by
  obtain ⟨ho, h3, h7, h⟩ | ⟨ho, h3, h7, h⟩ | ⟨ho, h3, h7, h⟩ | ⟨ho, h3, h⟩ | ⟨-, -, h⟩ | ⟨-, h⟩ | ⟨-, -, h⟩ :=
    decode_cases w <;> cases h.symm.trans hd
  · exact (addPattern_admits_iff w).mpr ⟨ho, h3, h7⟩
  · exact (subPattern_admits_iff w).mpr ⟨ho, h3, h7⟩
  · exact (sllPattern_admits_iff w).mpr ⟨ho, h3, h7⟩
  · exact (addiPattern_admits_iff w).mpr ⟨ho, h3⟩

/-- A word decodes to an operation of a row exactly when `w & mask = match`, once the row's words are known to decode to
one (30_encoding.md R44). -/
theorem exists_decode_ok_iff_of_row {α : Type} {w : Word} (c : α → Instr) (p : Pattern)
    (hc : ∀ r, (c r).pattern = p) (hrow : p.admits w = true → ∃ r, decode w = .ok (c r)) :
    (∃ r, decode w = .ok (c r)) ↔ w &&& p.mask = p.bits := by
  constructor
  · rintro ⟨r, hd⟩
    exact beq_iff_eq.mp (hc r ▸ pattern_admits_of_decode_ok hd)
  · intro h
    exact hrow (beq_iff_eq.mpr h)

/-- A word fails to decode exactly when no row of the table admits it (30_encoding.md R44). -/
theorem decode_error_iff_not_admits (w : Word) :
    (∃ f, decode w = .error f) ↔
      addPattern.admits w = false ∧ subPattern.admits w = false ∧ sllPattern.admits w = false ∧
        addiPattern.admits w = false := by
  have hok : Machine.decOkBit w = false ↔ ∃ f, decode w = .error f := by
    rw [Machine.decOkBit_eq_decodes, Machine.decodes]
    cases decode w <;> simp [Except.toBool]
  simp [← hok, Machine.decOkBit, and_assoc]

/-- No word is of two rows: the rows differ in a field that both of them fix (30_encoding.md R45). -/
theorem countP_admits_le_one (w : Word) :
    [addPattern, subPattern, sllPattern, addiPattern].countP (fun p => p.admits w) ≤ 1 := by
  simp only [List.countP_cons, List.countP_nil, addPattern_admits_iff, subPattern_admits_iff,
    sllPattern_admits_iff, addiPattern_admits_iff]
  by_cases ho : opcode w = 0x33#7
  · by_cases h3 : funct3 w = 0#3
    · by_cases h7 : funct7 w = 0#7
      · simp [ho, h3, h7]
      · by_cases h7' : funct7 w = 0x20#7 <;> simp [ho, h3, h7, h7']
    · by_cases hsll : funct3 w = 1#3 ∧ funct7 w = 0#7 <;> simp [ho, h3, hsll]
  · by_cases haddi : opcode w = 0x13#7 ∧ funct3 w = 0#3 <;> simp [ho, haddi]

/-- Settles O6: a word of a row decodes to its operation, the operation a word decodes to has it in its row, and the
rows exclude each other. -/
theorem patternsSelectTheOperations : Obligations.PatternsSelectTheOperations := by
  intro w
  refine ⟨exists_decode_ok_iff_of_row .add addPattern (fun _ => rfl) fun h => ⟨_, decode_of_addPattern_admits h⟩,
    exists_decode_ok_iff_of_row .sub subPattern (fun _ => rfl) fun h => ⟨_, decode_of_subPattern_admits h⟩,
    exists_decode_ok_iff_of_row .sll sllPattern (fun _ => rfl) fun h => ⟨_, decode_of_sllPattern_admits h⟩,
    exists_decode_ok_iff_of_row .addi addiPattern (fun _ => rfl) fun h => ⟨_, decode_of_addiPattern_admits h⟩,
    ?_, countP_admits_le_one w⟩
  simp only [decode_error_iff_not_admits, Pattern.admits, beq_eq_false_iff_ne]
  rfl

/-! ### Words outside the set -/

theorem decode_of_unknown_opcode {w : Word} (hR : opcode w ≠ 0x33#7) (hI : opcode w ≠ 0x13#7) :
    decode w = .error (.unknownOpcode (opcode w)) := by
  simp [decode, hR, hI]

theorem decode_of_unknown_funct3_I {w : Word} (ho : opcode w = 0x13#7) (h0 : funct3 w ≠ 0#3) :
    decode w = .error (.unknownFunct3 (funct3 w)) := by
  rw [decode_of_opcodeI ho]
  exact if_neg h0

theorem decode_of_unknown_funct3_R {w : Word} (ho : opcode w = 0x33#7) (h0 : funct3 w ≠ 0#3)
    (h1 : funct3 w ≠ 1#3) : decode w = .error (.unknownFunct3 (funct3 w)) := by
  rw [decode_of_opcodeR ho]
  exact (if_neg h0).trans (if_neg h1)

/-- A funct7 other than 0 and 0x20 is unknown under both funct3 values of the R-format (30_encoding.md R42). -/
theorem decode_of_unknown_funct7 {w : Word} (ho : opcode w = 0x33#7) (h3 : funct3 w = 0#3 ∨ funct3 w = 1#3)
    (h0 : funct7 w ≠ 0#7) (h20 : funct7 w ≠ 0x20#7) : decode w = .error (.unknownFunct7 (funct7 w)) := by
  rw [decode_of_opcodeR ho]
  obtain h3 | h3 := h3 <;> simp [classifyR, rRecord, h3, h0, h20]

/-- The word's low two bits are the opcode's (30_encoding.md R35). -/
theorem extractLsb'_opcode (w : Word) : (opcode w).extractLsb' 0 2 = w.extractLsb' 0 2 := by
  ext i hi
  simp [opcode]

/-- Settles O10: both known opcodes end in 0b11. -/
theorem noCompressedEncodings : Obligations.NoCompressedEncodings := by
  refine ⟨fun w hw => ?_, rfl⟩
  rw [← extractLsb'_opcode] at hw
  exact decode_of_unknown_opcode (fun ho => hw (ho ▸ rfl)) (fun ho => hw (ho ▸ rfl))

/-- Settles O11, one lemma of the classifier for each kind of failure. -/
theorem standardRiscvWordsOutsideTheSet : Obligations.StandardRiscvWordsOutsideTheSet := by
  refine ⟨fun w ho => ?_, fun w ho h3 => ?_, fun w ho h3 => ?_, fun w ho h7 h3 => ?_⟩
  · exact decode_of_unknown_opcode (ne_of_mem_of_not_mem ho (by decide)) (ne_of_mem_of_not_mem ho (by decide))
  · exact decode_of_unknown_funct3_I ho (ne_of_mem_of_not_mem h3 (by decide))
  · exact decode_of_unknown_funct3_R ho (ne_of_mem_of_not_mem h3 (by decide))
      (ne_of_mem_of_not_mem h3 (by decide))
  · have hd := decode_of_unknown_funct7 ho (by simpa using h3) (by simp [h7]) (by simp [h7])
    rwa [h7] at hd

end Sys2Proof

namespace Sys2Proof.Machine

/-! ### The words of the standard pseudo-instructions -/

/-- A step on the word of a well-formed operation executes the operation. -/
theorem step_presentNext_encode {i : Instr} (hi : i.wellFormed = true) (s : State) :
    step (s.presentNext (encode i)) = .next { s with x := execute i s.x } :=
  step_presentNext_ok (decodeOfEncode i hi) s

/-- A step on the word of a well-formed operation leaves the result at `rd` and every other register as it was
(40_decode.md R55). -/
theorem exists_step_presentNext_encode {i : Instr} (hi : i.wellFormed = true) (s : State) :
    ∃ t, step (s.presentNext (encode i)) = .next t ∧ t.readReg (destReg i) = aluResult i s.x ∧
      ∀ j, j ≠ destReg i → t.readReg j = s.readReg j := by
  refine ⟨_, step_presentNext_encode hi s, by simp, fun j hj => ?_⟩
  simp [hj, State.readReg]

/-- `addi rd, rs1, imm`, the immediate as its 12 bits. -/
def addiOf (rd rs1 : RegIdx) (imm : BitVec 12) : Instr :=
  .addi { opcode := 0x13#7, rd := rd, funct3 := 0#3, rs1 := rs1, imm := imm.setWidth 32 }

/-- `sub rd, rs1, rs2`. -/
def subOf (rd rs1 rs2 : RegIdx) : Instr :=
  .sub { opcode := 0x33#7, rd := rd, funct3 := 0#3, rs1 := rs1, rs2 := rs2, funct7 := 0x20#7 }

theorem addiOf_wellFormed (rd rs1 : RegIdx) (imm : BitVec 12) : (addiOf rd rs1 imm).wellFormed = true := by
  have himm : (imm.setWidth 32).toNat ≤ 4095 := by
    have hlt := imm.isLt
    rw [BitVec.toNat_setWidth_of_le (by decide)]
    omega
  exact decide_eq_true himm

theorem encode_addiOf (rd rs1 : RegIdx) (imm : BitVec 12) :
    encode (addiOf rd rs1 imm) = imm ++ rs1 ++ 0#3 ++ rd ++ 0x13#7 := by
  have himm : (imm.setWidth 32).extractLsb' 0 12 = imm := by
    ext i hi
    simp [hi, show i < 32 by omega]
  simp only [encode, addiOf, encodeI, himm]

theorem subOf_wellFormed (rd rs1 rs2 : RegIdx) : (subOf rd rs1 rs2).wellFormed = true := rfl

theorem encode_subOf (rd rs1 rs2 : RegIdx) :
    encode (subOf rd rs1 rs2) = 0x20#7 ++ rs2 ++ rs1 ++ 0#3 ++ rd ++ 0x33#7 := rfl

/-- A step on the word of `addi rd, rs1, imm` adds the zero-extended immediate (42_register_immediate.md R63). -/
theorem exists_step_presentNext_addi (s : State) (rd rs1 : RegIdx) (imm : BitVec 12) :
    ∃ t, step (s.presentNext (imm ++ rs1 ++ 0#3 ++ rd ++ 0x13#7)) = .next t ∧
      t.readReg rd = s.readReg rs1 + imm.setWidth 32 ∧ ∀ j, j ≠ rd → t.readReg j = s.readReg j := by
  rw [← encode_addiOf]
  exact exists_step_presentNext_encode (addiOf_wellFormed rd rs1 imm) s

/-- Adding 0 to a register and writing the sum back changes nothing. -/
theorem execute_addiOf_self_zero (rd : RegIdx) (x : RegFile) : execute (addiOf rd rd 0#12) x = x := by
  refine regFile_ext fun j => ?_
  by_cases h : j = rd <;> simp [addiOf, destReg, aluResult, aluAddi, h]

/-- Settles O21: `nop`, `mv` and `li` are words of ADDI and `neg` is a word of SUB, and `x[0]` counts like any other
register. -/
theorem standardPseudoInstructionWords : Obligations.StandardPseudoInstructionWords := by
  refine ⟨fun s => ?_, fun s rd rs => ?_, fun s rd imm => exists_step_presentNext_addi s rd 0#5 imm,
    fun s rd rs => ?_⟩
  · have hstep := step_presentNext_encode (addiOf_wellFormed 0#5 0#5 0#12) s
    rwa [execute_addiOf_self_zero] at hstep
  · simpa using exists_step_presentNext_addi s rd rs 0#12
  · rw [← encode_subOf]
    exact exists_step_presentNext_encode (subOf_wellFormed rd 0#5 rs) s

end Sys2Proof.Machine

namespace Sys2Proof

/-! ### The round trip from a word -/

theorem rRecord_hasFixed {w : Word} {f3 : BitVec 3} {f7 : BitVec 7} (ho : opcode w = 0x33#7)
    (h3 : funct3 w = f3) (h7 : funct7 w = f7) : (rRecord w).hasFixed f3 f7 = true := by
  simp [RFormat.hasFixed, rRecord, ho, h3, h7]

theorem iRecord_hasFixed {w : Word} {f3 : BitVec 3} (ho : opcode w = 0x13#7) (h3 : funct3 w = f3) :
    (iRecord w).hasFixed f3 = true := by
  have himm : decide ((iRecord w).imm.toNat ≤ 4095) = true := decide_eq_true (iRecord_imm_toNat_le w)
  rw [IFormat.hasFixed, himm]
  simp [iRecord, ho, h3]

theorem encode_of_decode_ok {w : Word} {i : Instr} (hd : decode w = .ok i) : encode i = w := by
  obtain ⟨rfl, -⟩ | ⟨rfl, -⟩ | ⟨rfl, -⟩ | ⟨rfl, -⟩ := Machine.decode_ok_cases hd
  · exact encodeR_rRecord w
  · exact encodeR_rRecord w
  · exact encodeR_rRecord w
  · exact encodeI_iRecord w

theorem wellFormed_of_decode_ok {w : Word} {i : Instr} (hd : decode w = .ok i) : i.wellFormed = true := by
  obtain ⟨ho, h3, h7, h⟩ | ⟨ho, h3, h7, h⟩ | ⟨ho, h3, h7, h⟩ | ⟨ho, h3, h⟩ | ⟨-, -, h⟩ | ⟨-, h⟩ | ⟨-, -, h⟩ :=
    decode_cases w <;> cases h.symm.trans hd
  · exact rRecord_hasFixed ho h3 h7
  · exact rRecord_hasFixed ho h3 h7
  · exact rRecord_hasFixed ho h3 h7
  · exact iRecord_hasFixed ho h3

/-- Settles O5: a decoded record is made of the word's own fields, and those the decoder tested are the operation's. -/
theorem encodeOfDecode : Obligations.EncodeOfDecode :=
  fun _ _ hd => ⟨encode_of_decode_ok hd, wellFormed_of_decode_ok hd⟩

/-! ### The extractor in numbers -/

/-- The field of `n` bits from bit `lo` on, as a number (40_decode.md R50). -/
theorem toNat_extractLsb'_eq_div_mod (w : Word) (lo n : Nat) :
    (w.extractLsb' lo n).toNat = w.toNat / 2 ^ lo % 2 ^ n := by
  rw [BitVec.extractLsb'_toNat, Nat.shiftRight_eq_div_pow]

/-- A field that ends at bit 31 has no bits above it to take off. -/
theorem toNat_extractLsb'_eq_div {lo n : Nat} (h : lo + n = 32) (w : Word) :
    (w.extractLsb' lo n).toNat = w.toNat / 2 ^ lo := by
  have hlt : w.toNat < 2 ^ lo * 2 ^ n := by
    rw [← Nat.pow_add, h]
    exact w.isLt
  rw [toNat_extractLsb'_eq_div_mod, Nat.mod_eq_of_lt (Nat.div_lt_of_lt_mul hlt)]

theorem opcode_toNat (w : Word) : (opcode w).toNat = w.toNat % 2 ^ 7 := by
  rw [opcode, toNat_extractLsb'_eq_div_mod, pow_zero, Nat.div_one]

theorem iRecord_imm_toNat (w : Word) : (iRecord w).imm.toNat = w.toNat / 2 ^ 20 := by
  rw [iRecord_imm_eq_ushiftRight, BitVec.toNat_ushiftRight, Nat.shiftRight_eq_div_pow]

/-- Settles O1, field by field: the records hold the word's fields as they are. -/
theorem extractorTakesTheStatedBits : Obligations.ExtractorTakesTheStatedBits := by
  intro w
  have hrd := toNat_extractLsb'_eq_div_mod w 7 5
  have h3 := toNat_extractLsb'_eq_div_mod w 12 3
  have hrs1 := toNat_extractLsb'_eq_div_mod w 15 5
  have hrs2 := toNat_extractLsb'_eq_div_mod w 20 5
  have h7 := toNat_extractLsb'_eq_div (lo := 25) (n := 7) rfl w
  exact ⟨opcode_toNat w, ⟨opcode_toNat w, hrd, h3, hrs1, hrs2, h7⟩,
    ⟨opcode_toNat w, hrd, h3, hrs1, iRecord_imm_toNat w⟩⟩

/-! ### When each failure is reported -/

theorem decode_eq_unknownOpcode_iff {w : Word} {v : BitVec 7} :
    decode w = .error (.unknownOpcode v) ↔ v = opcode w ∧ opcode w ≠ 0x33#7 ∧ opcode w ≠ 0x13#7 := by
  constructor
  · intro hd
    obtain ⟨-, -, -, h⟩ | ⟨-, -, -, h⟩ | ⟨-, -, -, h⟩ | ⟨-, -, h⟩ | ⟨hR, hI, h⟩ | ⟨-, h⟩ | ⟨-, -, h⟩ :=
      decode_cases w <;> cases h.symm.trans hd
    exact ⟨rfl, hR, hI⟩
  · rintro ⟨rfl, hR, hI⟩
    exact decode_of_unknown_opcode hR hI

theorem decode_eq_unknownFunct3_iff {w : Word} {v : BitVec 3} :
    decode w = .error (.unknownFunct3 v) ↔ v = funct3 w ∧
      ((opcode w = 0x33#7 ∧ funct3 w ≠ 0#3 ∧ funct3 w ≠ 1#3) ∨ (opcode w = 0x13#7 ∧ funct3 w ≠ 0#3)) := by
  constructor
  · intro hd
    obtain ⟨-, -, -, h⟩ | ⟨-, -, -, h⟩ | ⟨-, -, -, h⟩ | ⟨-, -, h⟩ | ⟨-, -, h⟩ | ⟨hcause, h⟩ | ⟨-, -, h⟩ :=
      decode_cases w <;> cases h.symm.trans hd
    exact ⟨rfl, hcause⟩
  · rintro ⟨rfl, ⟨ho, h0, h1⟩ | ⟨ho, h0⟩⟩
    · exact decode_of_unknown_funct3_R ho h0 h1
    · exact decode_of_unknown_funct3_I ho h0

/-- With funct3 = 1 only a funct7 of 0 is known (30_encoding.md R42). -/
theorem decode_of_unknown_funct7_sll {w : Word} (ho : opcode w = 0x33#7) (h3 : funct3 w = 1#3)
    (h0 : funct7 w ≠ 0#7) : decode w = .error (.unknownFunct7 (funct7 w)) := by
  rw [decode_of_opcodeR ho]
  simp [classifyR, rRecord, h3, h0]

theorem decode_eq_unknownFunct7_iff {w : Word} {v : BitVec 7} :
    decode w = .error (.unknownFunct7 v) ↔ v = funct7 w ∧ opcode w = 0x33#7 ∧
      ((funct3 w = 0#3 ∧ funct7 w ≠ 0#7 ∧ funct7 w ≠ 0x20#7) ∨ (funct3 w = 1#3 ∧ funct7 w ≠ 0#7)) := by
  constructor
  · intro hd
    obtain ⟨-, -, -, h⟩ | ⟨-, -, -, h⟩ | ⟨-, -, -, h⟩ | ⟨-, -, h⟩ | ⟨-, -, h⟩ | ⟨-, h⟩ | ⟨ho, hcause, h⟩ :=
      decode_cases w <;> cases h.symm.trans hd
    exact ⟨rfl, ho, hcause⟩
  · rintro ⟨rfl, ho, ⟨h3, h0, h20⟩ | ⟨h3, h0⟩⟩
    · exact decode_of_unknown_funct7 ho (.inl h3) h0 h20
    · exact decode_of_unknown_funct7_sll ho h3 h0

/-- Settles O8: a failure is decided by the field that fails and those tested before it. -/
theorem firstFailingTestDecides : Obligations.FirstFailingTestDecides := by
  refine ⟨fun w w' hR hI ho => ?_, fun w w' hR h0 h1 ho h3 => ?_, fun w v hd => ?_, rfl⟩
  · have hw := decode_of_unknown_opcode hR hI
    have hw' : decode w' = .error (.unknownOpcode (opcode w)) :=
      decode_eq_unknownOpcode_iff.mpr ⟨ho.symm, ho ▸ hR, ho ▸ hI⟩
    exact ⟨hw'.trans hw.symm, hw⟩
  · have hw := decode_of_unknown_funct3_R hR h0 h1
    have hw' : decode w' = .error (.unknownFunct3 (funct3 w)) :=
      decode_eq_unknownFunct3_iff.mpr ⟨h3.symm, .inl ⟨ho.trans hR, h3 ▸ h0, h3 ▸ h1⟩⟩
    exact ⟨hw'.trans hw.symm, hw⟩
  · obtain ⟨hv, ho, hcause⟩ := decode_eq_unknownFunct7_iff.mp hd
    exact ⟨hv, ho, hcause.imp And.left And.left⟩

/-- Settles O12, by running the decoder on the seven words. -/
theorem specVectorWordsDecode : Obligations.SpecVectorWordsDecode :=
  ⟨rfl, rfl, rfl, rfl, rfl, rfl, rfl⟩

/-! ### The sizes of the decoder's classes -/

/-- The words whose opcode, funct3 and funct7 are each in a given set. -/
def Selected (A : Finset (BitVec 7)) (B : Finset (BitVec 3)) (C : Finset (BitVec 7)) (w : Word) : Prop :=
  opcode w ∈ A ∧ funct3 w ∈ B ∧ funct7 w ∈ C

/-- A word of such a set is a choice of its three selecting fields and of its three register fields, since the R-format
tiles the word (30_encoding.md R36). -/
def selectedEquiv (A : Finset (BitVec 7)) (B : Finset (BitVec 3)) (C : Finset (BitVec 7)) :
    { w : Word // Selected A B C w } ≃ (A × B × C) × (RegIdx × RegIdx × RegIdx) where
  toFun w := ((⟨opcode w, w.2.1⟩, ⟨funct3 w, w.2.2.1⟩, ⟨funct7 w, w.2.2.2⟩), (rdField w, rs1Field w, rs2Field w))
  invFun k := ⟨encodeR { opcode := k.1.1, rd := k.2.1, funct3 := k.1.2.1, rs1 := k.2.2.1, rs2 := k.2.2.2,
                         funct7 := k.1.2.2 }, by simp [Selected]⟩
  left_inv w := Subtype.ext (encodeR_rRecord w)
  right_inv k := by simp

@[simp] theorem card_bitVec (n : Nat) : Fintype.card (BitVec n) = 2 ^ n := by
  rw [← FinEnum.card_eq_fintypeCard, FinEnum.card_bitVec]

theorem natCard_selected (A : Finset (BitVec 7)) (B : Finset (BitVec 3)) (C : Finset (BitVec 7)) :
    Nat.card { w : Word // Selected A B C w } = A.card * B.card * C.card * 2 ^ 15 := by
  have hreg : Nat.card RegIdx = 2 ^ 5 := by rw [Nat.card_eq_fintype_card, card_bitVec]
  rw [Nat.card_congr (selectedEquiv A B C)]
  simp only [Nat.card_prod, Nat.card_eq_finsetCard, hreg]
  ring

/-- The size of a class of words, once its selecting fields are known. -/
theorem natCard_of_iff_selected {P : Word → Prop} {A : Finset (BitVec 7)} {B : Finset (BitVec 3)}
    {C : Finset (BitVec 7)} {n : Nat} (h : ∀ w, P w ↔ Selected A B C w)
    (hn : A.card * B.card * C.card * 2 ^ 15 = n) : Nat.card { w : Word // P w } = n :=
  (Nat.card_congr (Equiv.subtypeEquivRight h)).trans ((natCard_selected A B C).trans hn)

/-- A class all of whose words meet one of two properties that exclude each other has the size of its two parts. -/
theorem natCard_eq_add_of_cover {P Q R : Word → Prop} (hcover : ∀ w, P w → Q w ∨ R w) (hdisj : ∀ w, Q w → ¬R w) :
    Nat.card { w : Word // P w } = Nat.card { w : Word // Q w ∧ P w } + Nat.card { w : Word // R w ∧ P w } := by
  classical
  have hP : ∀ w, P w ↔ (Q w ∧ P w) ∨ (R w ∧ P w) := fun w => by
    rw [← or_and_right]
    exact (and_iff_right_of_imp (hcover w)).symm
  have hQR : Disjoint (fun w => Q w ∧ P w) (fun w => R w ∧ P w) :=
    Pi.disjoint_iff.mpr fun w => Prop.disjoint_iff.mpr fun ⟨⟨hQ, _⟩, hR, _⟩ => hdisj w hQ hR
  rw [Nat.card_congr ((Equiv.subtypeEquivRight hP).trans (subtypeOrEquiv _ _ hQR)), Nat.card_sum]

theorem exists_decode_add_iff (w : Word) :
    (∃ r, decode w = .ok (.add r)) ↔ Selected {0x33#7} {0#3} {0#7} w := by
  obtain ⟨hadd, -⟩ := patternsSelectTheOperations w
  simpa only [Selected, Finset.mem_singleton] using hadd.trans (and_maskR_eq_iff w 0#3 0#7)

theorem exists_decode_sub_iff (w : Word) :
    (∃ r, decode w = .ok (.sub r)) ↔ Selected {0x33#7} {0#3} {0x20#7} w := by
  obtain ⟨-, hsub, -⟩ := patternsSelectTheOperations w
  simpa only [Selected, Finset.mem_singleton] using hsub.trans (and_maskR_eq_iff w 0#3 0x20#7)

theorem exists_decode_sll_iff (w : Word) :
    (∃ r, decode w = .ok (.sll r)) ↔ Selected {0x33#7} {1#3} {0#7} w := by
  obtain ⟨-, -, hsll, -⟩ := patternsSelectTheOperations w
  simpa only [Selected, Finset.mem_singleton] using hsll.trans (and_maskR_eq_iff w 1#3 0#7)

theorem exists_decode_addi_iff (w : Word) :
    (∃ r, decode w = .ok (.addi r)) ↔ Selected {0x13#7} {0#3} Finset.univ w := by
  obtain ⟨-, -, -, haddi, -⟩ := patternsSelectTheOperations w
  simpa [Selected] using haddi.trans (and_maskI_eq_iff w 0#3)

theorem exists_decode_unknownOpcode_iff (w : Word) :
    (∃ v, decode w = .error (.unknownOpcode v)) ↔ Selected {0x33#7, 0x13#7}ᶜ Finset.univ Finset.univ w := by
  simp [Selected, decode_eq_unknownOpcode_iff]

theorem exists_decode_unknownFunct3_R_iff (w : Word) :
    (opcode w = 0x33#7 ∧ ∃ v, decode w = .error (.unknownFunct3 v)) ↔
      Selected {0x33#7} {0#3, 1#3}ᶜ Finset.univ w := by
  simp +contextual [Selected, decode_eq_unknownFunct3_iff]

theorem exists_decode_unknownFunct3_I_iff (w : Word) :
    (opcode w = 0x13#7 ∧ ∃ v, decode w = .error (.unknownFunct3 v)) ↔ Selected {0x13#7} {0#3}ᶜ Finset.univ w := by
  simp +contextual [Selected, decode_eq_unknownFunct3_iff]

theorem exists_decode_unknownFunct7_add_sub_iff (w : Word) :
    (funct3 w = 0#3 ∧ ∃ v, decode w = .error (.unknownFunct7 v)) ↔ Selected {0x33#7} {0#3} {0#7, 0x20#7}ᶜ w := by
  by_cases h3 : funct3 w = 0#3 <;> simp [Selected, decode_eq_unknownFunct7_iff, h3]

theorem exists_decode_unknownFunct7_sll_iff (w : Word) :
    (funct3 w = 1#3 ∧ ∃ v, decode w = .error (.unknownFunct7 v)) ↔ Selected {0x33#7} {1#3} {0#7}ᶜ w := by
  by_cases h3 : funct3 w = 1#3 <;> simp [Selected, decode_eq_unknownFunct7_iff, h3]

/-- `decode` is total: its answers are those of the seven classes (40_decode.md R57). -/
theorem decode_classes_cover (w : Word) :
    (∃ r, decode w = .ok (.add r)) ∨ (∃ r, decode w = .ok (.sub r)) ∨ (∃ r, decode w = .ok (.sll r)) ∨
    (∃ r, decode w = .ok (.addi r)) ∨ (∃ v, decode w = .error (.unknownOpcode v)) ∨
    (∃ v, decode w = .error (.unknownFunct3 v)) ∨ (∃ v, decode w = .error (.unknownFunct7 v)) := by
  cases decode w with
  | ok i => cases i <;> simp
  | error f => cases f <;> simp

theorem natCard_unknownFunct3_R :
    Nat.card { w : Word // opcode w = 0x33#7 ∧ ∃ v, decode w = .error (.unknownFunct3 v) } = 6 * 2 ^ 22 :=
  natCard_of_iff_selected exists_decode_unknownFunct3_R_iff (by simp [Finset.card_compl])

theorem natCard_unknownFunct3_I :
    Nat.card { w : Word // opcode w = 0x13#7 ∧ ∃ v, decode w = .error (.unknownFunct3 v) } = 7 * 2 ^ 22 :=
  natCard_of_iff_selected exists_decode_unknownFunct3_I_iff (by simp [Finset.card_compl])

theorem natCard_unknownFunct3 :
    Nat.card { w : Word // ∃ v, decode w = .error (.unknownFunct3 v) } = 6 * 2 ^ 22 + 7 * 2 ^ 22 := by
  rw [← natCard_unknownFunct3_R, ← natCard_unknownFunct3_I]
  refine natCard_eq_add_of_cover (fun w ⟨v, hd⟩ => ?_) (fun w hR hI => absurd (hR.symm.trans hI) (by decide))
  obtain ⟨-, hcause⟩ := decode_eq_unknownFunct3_iff.mp hd
  exact hcause.imp And.left And.left

theorem natCard_unknownFunct7_add_sub :
    Nat.card { w : Word // funct3 w = 0#3 ∧ ∃ v, decode w = .error (.unknownFunct7 v) } = 126 * 2 ^ 15 :=
  natCard_of_iff_selected exists_decode_unknownFunct7_add_sub_iff (by simp [Finset.card_compl])

theorem natCard_unknownFunct7_sll :
    Nat.card { w : Word // funct3 w = 1#3 ∧ ∃ v, decode w = .error (.unknownFunct7 v) } = 127 * 2 ^ 15 :=
  natCard_of_iff_selected exists_decode_unknownFunct7_sll_iff (by simp [Finset.card_compl])

theorem natCard_unknownFunct7 :
    Nat.card { w : Word // ∃ v, decode w = .error (.unknownFunct7 v) } = (126 + 127) * 2 ^ 15 := by
  rw [Nat.add_mul, ← natCard_unknownFunct7_add_sub, ← natCard_unknownFunct7_sll]
  refine natCard_eq_add_of_cover (fun w ⟨v, hd⟩ => ?_) (fun w h0 h1 => absurd (h0.symm.trans h1) (by decide))
  obtain ⟨-, -, hcause⟩ := decode_eq_unknownFunct7_iff.mp hd
  exact hcause.imp And.left And.left

/-- Settles O9: each class is fixed by its sets of selecting fields, or is two such classes; the register fields are
free. -/
theorem decodeClassesHaveTheStatedSizes : Obligations.DecodeClassesHaveTheStatedSizes :=
  ⟨decode_classes_cover,
    natCard_of_iff_selected exists_decode_add_iff (by simp),
    natCard_of_iff_selected exists_decode_sub_iff (by simp),
    natCard_of_iff_selected exists_decode_sll_iff (by simp),
    natCard_of_iff_selected exists_decode_addi_iff (by simp),
    natCard_of_iff_selected exists_decode_unknownOpcode_iff (by simp [Finset.card_compl]),
    natCard_unknownFunct3_R, natCard_unknownFunct3_I, natCard_unknownFunct3,
    natCard_unknownFunct7_add_sub, natCard_unknownFunct7_sll, natCard_unknownFunct7, rfl⟩

end Sys2Proof

namespace Sys2Proof.Machine

/-! ### The step in the terms of the block -/

/-- Settles O17, from the meaning of every operation as `execute` and a read after its write. -/
theorem executeReadsThenWritesOneEntry : Obligations.ExecuteReadsThenWritesOneEntry := by
  intro i s
  refine ⟨_, exec_eq_next i s, by simp, fun j hj => ?_, rfl⟩
  simp [hj, State.readReg]

/-- Settles O24, by whether the word decodes. -/
theorem stepRefinesTheBlockStep : Obligations.StepRefinesTheBlockStep := by
  intro x w ws
  cases hd : decode w with
  | ok i => simp only [blockStep, hd, step_cons_ok hd]
  | error f => simp only [blockStep, hd, step_cons_error hd]

/-- Settles O22: `exec` on the state without the word is `execute` on its register file. -/
theorem stepRunsTheDecodedInstruction : Obligations.StepRunsTheDecodedInstruction := by
  refine ⟨?_, ?_⟩
  · rintro ⟨x, _⟩ w ws i rfl hd
    rw [step_cons_ok hd, exec_eq_next]
  · rintro ⟨x, _⟩ w ws f rfl hd
    exact step_cons_error hd x ws

/-- A table word of 32 bits is the number as a word (log entry 5). -/
theorem tableWord_32 (n : Nat) : tableWord 32 n = BitVec.ofNat 32 n :=
  BitVec.eq_of_toNat_eq (by simp [tableWord])

theorem decodeTableWord_eq_some_iff {nbits n : Nat} {i : Instr} :
    decodeTableWord nbits n = some i ↔ decode (tableWord nbits n) = .ok i := by
  rw [decodeTableWord]
  cases decode (tableWord nbits n) <;> simp [Except.toOption]

theorem decodeTableWord_eq_none_iff {nbits n : Nat} :
    decodeTableWord nbits n = none ↔ ∃ f, decode (tableWord nbits n) = .error f := by
  rw [decodeTableWord]
  cases decode (tableWord nbits n) <;> simp [Except.toOption]

/-- Settles O28: a placed table word is the presented word (log entry 2). -/
theorem placedTableWordIsRunNext : Obligations.PlacedTableWordIsRunNext := by
  refine ⟨fun s n i h => ?_, fun s n h => ?_⟩
  · exact (step_presentNext_ok (decodeTableWord_eq_some_iff.mp h) s).trans (exec_eq_next i s).symm
  · obtain ⟨f, hd⟩ := decodeTableWord_eq_none_iff.mp h
    exact ⟨f, tableWord_32 n ▸ hd, step_presentNext_error hd s⟩

end Sys2Proof.Machine

namespace Sys2Proof.Machine

/-! ### The register-register operations

Each completes with its ALU's result at `rd` and the frame of `executeReadsThenWritesOneEntry`; what is left to each
is that result as a number, and its words. -/

/-- Equal operands have difference 0 (41_register_register.md R61). -/
@[simp] theorem aluSub_self (a : Word) : aluSub a a = 0#32 := BitVec.sub_self a

/-- The shift as a number, the amount read as bits 4 to 0 of the operand (41_register_register.md R62). -/
theorem aluSll_toNat_extractLsb' (a b : Word) :
    (aluSll a b).toNat = a.toNat * 2 ^ (b.extractLsb' 0 5).toNat % 2 ^ 32 := by
  rw [aluSll_toNat, BitVec.extractLsb'_toNat, Nat.shiftRight_zero]

/-- Settles O13: the execute frame with the sum as a number, ADD's row, and the unknown funct7 values beside it. -/
theorem addWritesTheModularSum : Obligations.AddWritesTheModularSum := by
  refine ⟨fun r s => ?_, fun w hw => decode_of_addPattern_admits (beq_iff_eq.mpr hw),
    fun w ho h3 h0 h20 => decode_of_unknown_funct7 ho (.inl h3) h0 h20⟩
  obtain ⟨t, ht, hrd, hframe, hwords⟩ := executeReadsThenWritesOneEntry (.add r) s
  exact ⟨t, ht, (congrArg BitVec.toNat hrd).trans (aluAdd_toNat _ _), hframe, hwords⟩

/-- Settles O14: the execute frame with the difference as a number, and SUB's row. -/
theorem subWritesTheModularDifference : Obligations.SubWritesTheModularDifference := by
  refine ⟨fun r s => ?_, fun w hw => decode_of_subPattern_admits (beq_iff_eq.mpr hw)⟩
  obtain ⟨t, ht, hrd, hframe, hwords⟩ := executeReadsThenWritesOneEntry (.sub r) s
  have hrd' : t.readReg r.rd = aluSub (s.readReg r.rs1) (s.readReg r.rs2) := hrd
  refine ⟨t, ht, (congrArg BitVec.toNat hrd').trans (aluSub_toNat _ _), fun heq => ?_, hframe, hwords⟩
  rw [hrd', heq, aluSub_self]

/-- Settles O15: the execute frame with the shift as a number, SLL's row, and the unknown funct7 values beside it. -/
theorem sllShiftsByTheLowFiveBits : Obligations.SllShiftsByTheLowFiveBits := by
  refine ⟨fun r s => ?_, fun w hw => decode_of_sllPattern_admits (beq_iff_eq.mpr hw),
    fun w ho h3 h0 => decode_of_unknown_funct7_sll ho h3 h0⟩
  obtain ⟨t, ht, hrd, hframe, hwords⟩ := executeReadsThenWritesOneEntry (.sll r) s
  exact ⟨t, ht, (congrArg BitVec.toNat hrd).trans (aluSll_toNat_extractLsb' _ _), hframe, hwords⟩

end Sys2Proof.Machine

namespace Sys2Proof.Machine

/-! ### The register-immediate operation -/

/-- A word that decodes, presented in `s`, runs its operation on `s` (40_decode.md R54). -/
theorem step_presentNext_eq_exec {w : Word} {i : Instr} (hd : decode w = .ok i) (s : State) :
    step (s.presentNext w) = exec i s :=
  (step_presentNext_ok hd s).trans (exec_eq_next i s).symm

/-- ADDI's execute frame, with the sum as a number (42_register_immediate.md R63). -/
theorem exists_exec_addi (r : IFormat) (s : State) :
    ∃ t, exec (.addi r) s = .next t ∧
      (t.readReg r.rd).toNat = ((s.readReg r.rs1).toNat + r.imm.toNat) % 2 ^ 32 ∧
      (∀ j, j ≠ r.rd → t.readReg j = s.readReg j) ∧ t.words = s.words := by
  obtain ⟨t, ht, hrd, hframe, hwords⟩ := executeReadsThenWritesOneEntry (.addi r) s
  exact ⟨t, ht, (congrArg BitVec.toNat hrd).trans (aluAddi_toNat _ _), hframe, hwords⟩

/-- The immediate of an I-format word is the number of its bits 31 to 20 (30_encoding.md R39). -/
theorem iRecord_imm_toNat_extractLsb' (w : Word) : (iRecord w).imm.toNat = (w.extractLsb' 20 12).toNat :=
  BitVec.toNat_setWidth_of_le (by decide)

/-- A sum modulo `m` that is below a reduced summand has wrapped. -/
theorem le_add_of_add_mod_lt {a b m : Nat} (h : (a + b) % m < a) : m ≤ a + b := by
  by_contra hlt
  rw [Nat.mod_eq_of_lt (Nat.lt_of_not_le hlt)] at h
  exact Nat.not_lt.mpr (Nat.le_add_right a b) h

/-- Settles O16: a word of ADDI's row runs its record, whose immediate is bits 31 to 20; the sum without a wrap is no
less than the source; and the unknown funct3 values beside it. -/
theorem addiAddsTheUnsignedImmediate : Obligations.AddiAddsTheUnsignedImmediate := by
  refine ⟨exists_exec_addi, fun w s hw => ?_, fun w ho h0 => decode_of_unknown_funct3_I ho h0⟩
  have hd : decode w = .ok (.addi (iRecord w)) := decode_of_addiPattern_admits (beq_iff_eq.mpr hw)
  obtain ⟨t, ht, hrd, hframe, hwords⟩ := exists_exec_addi (iRecord w) s
  rw [iRecord_imm_toNat_extractLsb'] at hrd
  exact ⟨t, (step_presentNext_eq_exec hd s).trans ht, hrd, fun hlt => le_add_of_add_mod_lt (hrd ▸ hlt), hframe,
    hwords⟩

end Sys2Proof.Machine

namespace Sys2Proof.Machine

/-! ### The first failing word of a run -/

/-- A prefix of the list over which the fold answers a register file is run to the state with that register file and the
rest of the list, from which the other steps go on (20_memory.md R29). -/
theorem run_append_of_foldlM_ok {pre : List Word} {x x' : RegFile} (h : pre.foldlM blockStep x = .ok x')
    (k : Nat) (rest : List Word) :
    Host.Core.run Sys2Proof.core (pre.length + k) ({ x := x, words := pre ++ rest } : State) =
      Host.Core.run Sys2Proof.core k ({ x := x', words := rest } : State) := by
  induction pre generalizing x with
  | nil =>
    cases h
    rw [List.length_nil, Nat.zero_add, List.nil_append]
  | cons w pre ih =>
    cases hd : decode w with
    | ok i =>
      rw [foldlM_blockStep_cons_ok hd] at h
      rw [List.length_cons, Nat.succ_add, List.cons_append, run_succ_cons_ok hd, ih h]
    | error f =>
      rw [foldlM_blockStep_cons_error hd] at h
      cases h

/-- Settles O34: the prefix is run to the state before the failing word, and any step more is the fault. -/
theorem failuresArePreciseAndFinal : Obligations.FailuresArePreciseAndFinal := by
  intro x x' pre post w f hpre hd
  refine ⟨run_append_of_foldlM_ok hpre 0 (w :: post), fun k hk => ?_⟩
  obtain ⟨n, rfl⟩ := Nat.exists_eq_add_of_lt hk
  rw [Nat.add_assoc, run_append_of_foldlM_ok hpre, run_succ_cons_error hd]

/-! ### The decode failures and their codes -/

theorem decErr_of_decode_error {w : Word} {f : DecodeFailure} (hd : decode w = .error f) :
    (decoderPorts w).decErr = failureCode f := by
  rw [decoderPorts_of_decode_error hd]

/-- Settles O7: the causes of each failure, its code on `dec_err`, and the execute frame, which has no failure path. -/
theorem decodeFailureCausesAndCodes : Obligations.DecodeFailureCausesAndCodes :=
  ⟨fun _ _ => decode_eq_unknownOpcode_iff, fun _ _ => decode_eq_unknownFunct3_iff,
    fun _ _ => decode_eq_unknownFunct7_iff, fun _ _ => decErr_of_decode_error, fun _ _ => decErr_of_decode_error,
    fun _ _ => decErr_of_decode_error, fun i s => ⟨_, exec_eq_next i s⟩⟩

end Sys2Proof.Machine

namespace Sys2Proof.Machine

/-! ### Reset and hazards -/

/-- Settles O27: the first step leaves the executed register file, whose reads are the frame of the first operation, and
the second operation is executed on it (70_reset_and_hazards.md R76). -/
theorem nextInstructionSeesTheWrite : Obligations.NextInstructionSeesTheWrite := by
  intro x w₁ w₂ ws i₁ i₂ hd₁ hd₂
  refine ⟨_, _, step_cons_ok hd₁ x (w₂ :: ws), step_cons_ok hd₂ (execute i₁ x) ws,
    fun j _ => regRead_execute i₁ x j, ?_⟩
  simp only [State.readReg_mk, regRead_execute, if_true]

/-- Settles O40: a read of the reset state, the machine's own reset being the one of its `REG_INIT`. -/
theorem resetLeavesRegInit : Obligations.ResetLeavesRegInit :=
  ⟨fun regInit i => readReg_resetWith regInit (BitVec.ofFin i),
    fun i => readReg_resetWith Config.regInit (BitVec.ofFin i)⟩

/-- With no word pending, no word is left to write the register (70_reset_and_hazards.md R73, R74). -/
theorem holdsReg_resetWith (regInit : Fin 32 → Word) (i : RegIdx) :
    (State.resetWith regInit).holdsReg i (regInit i.toFin) = true := by
  rw [State.holdsReg, readReg_resetWith, beq_self_eq_true]
  rfl

/-- Settles O41: the list is empty after reset, so what is asked of every word holds, and each register reads its reset
value. -/
theorem invariantsHoldAfterReset : Obligations.InvariantsHoldAfterReset :=
  ⟨fun regInit => ⟨rfl, rfl, fun i => holdsReg_resetWith regInit (BitVec.ofFin i)⟩,
    rfl, rfl, fun i => holdsReg_resetWith Config.regInit (BitVec.ofFin i)⟩

end Sys2Proof.Machine

namespace Sys2Proof.Machine

/-! ### Without a step -/

/-- Settles O23: the empty list is the case in which the driver presents no word (log entry 3). -/
theorem noWordLeavesTheStateAsItIs : Obligations.NoWordLeavesTheStateAsItIs := by
  rintro ⟨x, _⟩ rfl
  exact step_nil x

/-- With `we = 0` the end of a cycle leaves the register file (10_state.md R22). -/
theorem commitWrite_of_we_eq_zero {p : DatapathPorts} (h : p.we = 0#1) (x : RegFile) : commitWrite x p = x := by
  have hwe : p.we ≠ 1#1 := by simp [h]
  exact if_neg hwe

/-- With no step requested the write enable is low, whatever the decoder answers (log entry 7). -/
theorem datapathPorts_we_of_no_request (x : RegFile) (d : DecoderPorts) : (datapathPorts x 0#1 d).we = 0#1 :=
  BitVec.zero_and

/-- Settles O32: no request, no write enable, no write. -/
theorem noRequestWritesNothing : Obligations.NoRequestWritesNothing := fun x w =>
  commitWrite_of_we_eq_zero (datapathPorts_we_of_no_request x (decoderPorts w)) x

end Sys2Proof.Machine
